-- ==== Sys2Proof/Word.lean ====
section
/-! DEFINITION. The word types of the core and their plainest arithmetic (00_scope.md R9, R11). -/

namespace Sys2Proof

/-- A 32-bit word: accumulator, input register, context slot, immediate, seed-block word (R9, R26). -/
abbrev Word := BitVec 32

/-- A 64-bit word: SG state, each half of the XG state, PRNG output, request and result (R9, R220). -/
abbrev DWord := BitVec 64

/-- A 40-bit instruction word: `op` in bits 39:32, `imm` in bits 31:0 (R71). -/
abbrev IWord := BitVec 40

/-- A program: an ordered, read-only sequence of instruction words (R30, R70). -/
abbrev Program := List IWord

/-- `trunc_32` of a 64-bit value (R11): its low 32 bits. -/
def trunc32 (d : DWord) : Word := d.setWidth 32

/-- `rotl_64(v, k)` for `0 < k < 64` (R11). -/
def rotl64 (v : DWord) (k : Nat) : DWord := (v <<< k) ||| (v >>> (64 - k))

end Sys2Proof
end

