-- ==== Sys2Proof/Config.lean ====
section
/-! DEFINITION. What the host fixes when the block is constructed (R10, R33, R220), and the values the
spec leaves free. A configuration is an operand of `NEW`, so it is data of the state, not a constant:
every statement about the machine holds for every configuration. -/

namespace Sys2Proof

/-- The stream generator selected at construction (R33): `PP` is Xoroshiro128++, `SS` is Xoroshiro128**. -/
inductive Variant where
  | pp
  | ss
  deriving DecidableEq, Repr

/-- The costs of the ten opcodes the source does not price, each a fixed natural number the host
supplies (R10, R184, D15). -/
structure OpenCosts where
  loadInput : Nat
  addOne : Nat
  subtractOne : Nat
  bitwiseNot : Nat
  negate : Nat
  saveToContext : Nat
  addContext : Nat
  subtractContext : Nat
  subroutine : Nat
  ret : Nat
  deriving DecidableEq, Repr

/-- The configuration registers: the operands of `NEW` other than the seed block (R10, R33, R220). -/
structure Configuration where
  /-- `ORDER[0..16]`: 17 signed 32-bit integers, held as their two's complement words (R33, R185; log entry
17). -/
  order : Vector Word 17
  /-- `VARIANT` (R33, R93). -/
  variant : Variant
  /-- `MAX_COST`, the budget of one attempt (R34, R196). -/
  maxCost : Nat
  /-- The ten open entries of `COST` (R184). -/
  costs : OpenCosts
  /-- `ADDSUB_EVEN_IS_ADD` (R193). -/
  addsubEvenIsAdd : Bool
  /-- `RESEED_PER_ATTEMPT` (R196, R198). -/
  reseedPerAttempt : Bool
  /-- `ACC_INIT`: the accumulator at the start of a run; `none` is R10's "unwritten" (R20, U5). -/
  accInit : Option Word
  /-- `CTX_DEPTH`; `none` is unbounded (R10, R24). -/
  ctxDepth : Option Nat
  /-- `PROG_CAP`; `none` is unbounded (R10, R30). -/
  progCap : Option Nat
  deriving DecidableEq, Repr

/-- FREE VALUE (log entry 1). The accumulator at the start of a run under an "unwritten" `ACC_INIT`
(R10, R20, U5: any value). It has no body: nothing can be proved of what it is. The argument is a
counter of the state, so two runs need not see the same value. -/
opaque Config.unwrittenAcc : Nat → Word

/-- DESIGN CHOICE (log entry 2). The configuration registers at reset. The spec gives no reset value
("none: supplied by the host", R33); these are the values of its example configuration EX-A
(95_test_vectors.md section 5), with `ACC_INIT` left unwritten and both capacities unbounded. -/
def Configuration.reset : Configuration where
  order := #v[0, 1, 2, 3, 4, 5, 6, 7, 0, 1, 2, 3, 4, 5, 0, 1, 2]
  variant := .pp
  maxCost := 10000
  costs := {
    loadInput := 1, addOne := 1, subtractOne := 1, bitwiseNot := 1, negate := 1,
    saveToContext := 1, addContext := 1, subtractContext := 1, subroutine := 1, ret := 1 }
  addsubEvenIsAdd := true
  reseedPerAttempt := false
  accInit := none
  ctxDepth := none
  progCap := none

end Sys2Proof
end

