-- ==== Sys2Proof/Syntax.lean ====
section
/-! DEFINITION. The closed instruction set of IU: one constructor per row of the opcode table (R4, R70, R72).
An opcode of format `OPI` carries its 32-bit immediate; an opcode of format `OP` carries nothing, because
its `imm` field is ignored (R73, R74). -/

namespace Sys2Proof

/-- The 21 instructions, in opcode order 0x00 to 0x14 (R72). -/
inductive Instr where
  | loadArg (imm : Word)
  | loadInput
  | loadFromBuffer (imm : Word)
  | loadFromBufferIndirect (imm : Word)
  | addArg (imm : Word)
  | subtractArg (imm : Word)
  | addOne
  | subtractOne
  | bitwiseNot
  | bitwiseXor (imm : Word)
  | negate
  | shuffle (imm : Word)
  | saveToContext
  | addContext
  | subtractContext
  | subtractFromContext
  | multiplyContext
  | shlContext
  | shrContext
  | subroutine
  | ret
  deriving DecidableEq, Repr

end Sys2Proof
end

