-- ==== Sys2Proof/WellFormed.lean ====
section
/-! DEFINITION. The checks the spec describes. Every `Instr` is a legal instruction (R73 admits all 2^32
immediates), so the checks are about instructions FE makes, programs FE makes and configurations. The
interpreter requires none of them (R79): they are predicates for statements. -/

namespace Sys2Proof

/-- An instruction FE can write: an index of LOAD_FROM_BUFFER in 0..1023, the one mask of
LOAD_FROM_BUFFER_INDIRECT, the one mask of SHUFFLE, and any immediate elsewhere (R188, R191, R192). -/
def Instr.feMade : Instr → Bool
  | .loadFromBuffer imm => imm.toNat ≤ 0x3FF
  | .loadFromBufferIndirect imm => imm == 0x3FF
  | .shuffle imm => imm == 0xAAAAAAAA
  | _ => true

/-- The loads a final production appends (R187). -/
def Instr.isFinal : Instr → Bool
  | .loadArg _ => true
  | .loadInput => true
  | .loadFromBuffer imm => decide (imm.toNat ≤ 0x3FF)
  | _ => false

/-- The operations an inner production appends (R191). -/
def Instr.isInner : Instr → Bool
  | .bitwiseNot => true
  | .negate => true
  | .addOne => true
  | .subtractOne => true
  | .shuffle imm => imm == 0xAAAAAAAA
  | .bitwiseXor _ => true
  | .addArg _ => true
  | .subtractArg _ => true
  | .loadFromBufferIndirect imm => imm == 0x3FF
  | _ => false

/-- The operations a subroutine production appends before its RETURN (R195). -/
def Instr.isCombine : Instr → Bool
  | .addContext => true
  | .subtractContext => true
  | .subtractFromContext => true
  | .multiplyContext => true
  | .shlContext => true
  | .shrContext => true
  | _ => false

/-- The scopes open after a piece of program that starts with `d` open (R79): SUBROUTINE opens one, at most
4 deep below the initial slot, and RETURN closes one; `none` if nesting passes 4 or a RETURN has no scope to
close. -/
def scopesAfter : Nat → List Instr → Option Nat
  | d, [] => some d
  | d, .subroutine :: rest => if d < 4 then scopesAfter (d + 1) rest else none
  | 0, .ret :: _ => none
  | d + 1, .ret :: rest => scopesAfter d rest
  | d, _ :: rest => scopesAfter d rest

/-- The well-formedness of an FE-made program (R79): every word has the form FE gives it; up to the last
word every SUBROUTINE has its RETURN and every RETURN its SUBROUTINE, at most 4 deep; and the last word is
the RETURN that halts. -/
def programWellFormed (p : List Instr) : Bool :=
  p.all Instr.feMade && p.getLast? == some .ret && scopesAfter 0 p.dropLast == some 0

/-- Group `base .. base+m-1` of the order table contains every residue 0..m-1 (R273). -/
def Configuration.groupTotal (c : Configuration) (base m : Nat) : Bool :=
  (List.range m).all fun r => ((c.order.toList.drop base).take m).any fun e => e.toInt == (r : Int)

/-- Each group of `ORDER` maps every residue of its modulus (R273). -/
def Configuration.orderTotal (c : Configuration) : Bool :=
  c.groupTotal 0 8 && c.groupTotal 8 6 && c.groupTotal 14 3

/-- The budget admits every one-round attempt (R202, R273). -/
def Configuration.budgetSuffices (c : Configuration) : Bool :=
  decide (25 + c.costs.ret ≤ c.maxCost) && decide (c.costs.loadInput ≤ 11)

/-- A capacity is unbounded or at least `n` (R273). -/
def capacityAtLeast (n : Nat) : Option Nat → Bool
  | none => true
  | some c => decide (n ≤ c)

/-- The conditions the host owes so that no transaction faults, but for the seed block's length (R273). -/
def Configuration.wellFormed (c : Configuration) : Bool :=
  c.orderTotal && c.budgetSuffices && capacityAtLeast 5 c.ctxDepth && capacityAtLeast 77 c.progCap

end Sys2Proof
end

