-- ==== Sys2Proof/Decode.lean ====
section
/-! DEFINITION. The 40-bit instruction word: a total decoder that names what it rejects (R75, R76), and the
encoder FE writes words with (R71, R72, R74). -/

namespace Sys2Proof

/-- The `op` field, bits 39:32 (R71). -/
def opField (w : IWord) : BitVec 8 := w.extractLsb' 32 8

/-- The `imm` field, bits 31:0, taken as it stands: unsigned, not extended, scaled or shifted (R71, R73). -/
def immField (w : IWord) : Word := w.extractLsb' 0 32

/-- What a word decodes to: an instruction, or an opcode value that names none (R76). -/
inductive Decoded where
  | instr (i : Instr)
  | unknown (op : BitVec 8)
  deriving DecidableEq, Repr

/-- The decoder: total on all 40-bit words; `op` 0x15 to 0xFF name no instruction (R72, R75, R76).
Format `OP` drops `imm`, so every value of it decodes alike (R74). -/
def decode (w : IWord) : Decoded :=
  match (opField w).toNat with
  | 0x00 => .instr (.loadArg (immField w))
  | 0x01 => .instr .loadInput
  | 0x02 => .instr (.loadFromBuffer (immField w))
  | 0x03 => .instr (.loadFromBufferIndirect (immField w))
  | 0x04 => .instr (.addArg (immField w))
  | 0x05 => .instr (.subtractArg (immField w))
  | 0x06 => .instr .addOne
  | 0x07 => .instr .subtractOne
  | 0x08 => .instr .bitwiseNot
  | 0x09 => .instr (.bitwiseXor (immField w))
  | 0x0A => .instr .negate
  | 0x0B => .instr (.shuffle (immField w))
  | 0x0C => .instr .saveToContext
  | 0x0D => .instr .addContext
  | 0x0E => .instr .subtractContext
  | 0x0F => .instr .subtractFromContext
  | 0x10 => .instr .multiplyContext
  | 0x11 => .instr .shlContext
  | 0x12 => .instr .shrContext
  | 0x13 => .instr .subroutine
  | 0x14 => .instr .ret
  | _ => .unknown (opField w)

/-- The opcode number of an instruction (R72). -/
def opcode : Instr → BitVec 8
  | .loadArg _ => 0x00
  | .loadInput => 0x01
  | .loadFromBuffer _ => 0x02
  | .loadFromBufferIndirect _ => 0x03
  | .addArg _ => 0x04
  | .subtractArg _ => 0x05
  | .addOne => 0x06
  | .subtractOne => 0x07
  | .bitwiseNot => 0x08
  | .bitwiseXor _ => 0x09
  | .negate => 0x0A
  | .shuffle _ => 0x0B
  | .saveToContext => 0x0C
  | .addContext => 0x0D
  | .subtractContext => 0x0E
  | .subtractFromContext => 0x0F
  | .multiplyContext => 0x10
  | .shlContext => 0x11
  | .shrContext => 0x12
  | .subroutine => 0x13
  | .ret => 0x14

/-- The immediate an instruction carries: `none` for the 14 opcodes of format `OP` (R73, R74). -/
def immediate? : Instr → Option Word
  | .loadArg imm => some imm
  | .loadFromBuffer imm => some imm
  | .loadFromBufferIndirect imm => some imm
  | .addArg imm => some imm
  | .subtractArg imm => some imm
  | .bitwiseXor imm => some imm
  | .shuffle imm => some imm
  | .loadInput => none
  | .addOne => none
  | .subtractOne => none
  | .bitwiseNot => none
  | .negate => none
  | .saveToContext => none
  | .addContext => none
  | .subtractContext => none
  | .subtractFromContext => none
  | .multiplyContext => none
  | .shlContext => none
  | .shrContext => none
  | .subroutine => none
  | .ret => none

/-- The canonical word of an instruction: `imm = 0` where the opcode has no immediate (R71, R74). -/
def encode (i : Instr) : IWord := opcode i ++ (immediate? i).getD 0

/-- The host's question: what the decoder reads from the instruction whose bits are `w`, of which the
table gives `nbits` and the rest are 0. A word of the program store is addressed whole (R54, R71), so
the bits are the word. -/
def decodeTableWord (nbits w : Nat) : Option Instr :=
  match decode (BitVec.ofNat 40 (w % 2 ^ nbits)) with
  | .instr i => some i
  | .unknown _ => none

end Sys2Proof
end

