-- ==== Sys2Proof/Machine/State.lean ====
section
/-! DEFINITION. The state of the core as plain data: the host port, the configuration registers, the two
memories, and the registers of CC, IU, SG, XG and FE (10_state.md, 20_memory.md, 45_emitter.md,
46_blackbox.md); what stops the model; and the machine right after reset. -/

namespace Sys2Proof.Machine

/-- The seed block, the core's data memory (R50): `len` words of 32 bits, addressed by word. `cells` lists
the words that are not zero, by strictly rising address; an unlisted address below `len` reads as zero.
The unit is the 32-bit word because the spec has no bytes (R54; log entry 6). -/
structure SeedBlock where
  len : Nat
  cells : List (Nat × Word)
  deriving DecidableEq, Repr

/-- Which of the two runs of one `EVALUATE` (R221, R224, R225). -/
inductive RunHalf where
  | low
  | high
  deriving DecidableEq, Repr

/-- A live grammar activation of FE, with its `step` argument and the point it has reached (R29, R190,
R194, R204; how much one step performs is log entry 11). -/
inductive Activation where
  /-- `emit_inner(step)`, called and not yet begun. -/
  | inner (step : Nat)
  /-- `emit_inner(step)`, waiting for its sub-production; its modulo-8 choice is to come. -/
  | innerTail (step : Nat)
  /-- `emit_subroutine(step)`, called and not yet begun. -/
  | subroutine (step : Nat)
  /-- `emit_subroutine(step)`, waiting for its first sub-production; SAVE_TO_CONTEXT is to come. -/
  | subroutineMid (step : Nat)
  /-- `emit_subroutine(step)`, waiting for its second sub-production; its modulo-6 choice is to come. -/
  | subroutineTail (step : Nat)
  deriving DecidableEq, Repr

/-- The `step` argument of an activation. -/
def Activation.step : Activation → Nat
  | .inner n => n
  | .innerTail n => n
  | .subroutine n => n
  | .subroutineMid n => n
  | .subroutineTail n => n

/-- Where the core stands: idle, or at a point of the one transaction in progress (R59, R220, R221; log entry
11). -/
inductive Phase where
  /-- No transaction is in progress (R38, R220). -/
  | idle
  /-- The slot is empty: `FE.fill` is about to seed the generators (R180, R221 step 2). -/
  | fillStart
  /-- FE is about to begin the attempt of the current `rounds` (R196). -/
  | attemptStart
  /-- FE is inside an attempt; the newest activation runs next, or the attempt closes (R190, R194, R196). -/
  | emitting
  /-- FE has returned `buf`; CC is about to store it (R199, R223). -/
  | storing
  /-- CC is about to start a run (R165, R221 steps 4 and 5). -/
  | runStart (half : RunHalf)
  /-- IU is running the slot's program (R165). -/
  | running (half : RunHalf)
  deriving DecidableEq, Repr

/-- A transaction the host asks for (R220): `NEW` with the configuration and the words of the seed block,
or `EVALUATE` with its 64-bit operand. -/
inductive Request where
  | new (config : Configuration) (block : List Word)
  | evaluate (value : DWord)
  deriving DecidableEq, Repr

/-- A fault of the core as the host receives it, with the info the spec records (R240). -/
inductive FaultRecord where
  /-- Code 1, `ConfigurationError(BudgetExhausted)`, raised by FE (R243). -/
  | budgetExhausted (slot : Fin 128)
  /-- Code 2, `ConfigurationError(LookupFailed)`, raised by FE (R243). -/
  | lookupFailed (slot : Fin 128) (base residue : Nat)
  /-- Code 3, `UnknownOpcode`, raised by IU (R241). -/
  | unknownOpcode (slot : Fin 128) (pc : Nat) (op : BitVec 8)
  /-- Code 4, `OutOfRangeBufferAccess`, raised by IU; the address is the word index presented (R242). -/
  | outOfRangeBufferAccess (slot : Fin 128) (pc : Nat) (address : Word)
  /-- Code 5, `ContextOverflow`, raised by IU (R244). -/
  | contextOverflow (slot : Fin 128) (pc : Nat)
  /-- Code 6, `SlotOverflow`, raised by CC (R245). -/
  | slotOverflow (slot : Fin 128) (length : Nat)
  deriving DecidableEq, Repr

/-- What the core returns for an `EVALUATE` (R220, R246). `NEW` returns nothing. -/
inductive Response where
  | ok (result : DWord)
  | fault (record : FaultRecord)
  deriving DecidableEq, Repr

/-- Why the MODEL stops (log entry 10). The core's own six faults are not among these: each is taken, as a
next state that answers the host (R246). No state the core reaches raises one of these. -/
inductive Fault where
  /-- An instruction needed a top context slot or a RETURN needed a slot to pop, and the stack was empty.
  Raised by the context-slot instructions and RETURN. The run loop never executes an instruction with
  `sp = 0` (R24), so only a state outside every run raises it. Safe. -/
  | emptyContextStack
  /-- A fetch from a slot that holds no program. Raised by the run loop; R57 requires `valid[s] = 1` and
  CC guarantees it (R221). Safe. -/
  | slotNotValid
  /-- A grammar activation whose `step` is too small for the point it has reached: the grammar calls its
  productions with `step >= 1` only (R190, R194). Raised by FE. Safe. -/
  | malformedActivation
  deriving DecidableEq, Repr

/-- Why the model has no meaning to give. -/
inductive Refusal where
  /-- An instruction whose arm in `exec` has no meaning yet. No arm uses it. Safe. -/
  | notModelled (mnemonic : String)
  deriving DecidableEq, Repr

/-- The whole state of the core. -/
structure State where
  -- The host port (R220; DESIGN CHOICE, log entry 4)
  /-- The transactions the host has asked for and the core has not accepted yet, oldest first. -/
  requests : List Request
  /-- What the core has returned to the host since power-on, oldest first (R220, R246). -/
  responses : List Response
  -- The configuration registers (R33) and the memories (R30, R50)
  cfg : Configuration
  /-- The seed block, read-only to IU (R50, R55). -/
  seed : SeedBlock
  /-- The program store: `none` is `valid[s] = 0`; `some p` is `valid[s] = 1`, `len[s]` the length of `p`
  and `prog[s]` its words (R30, D6). -/
  slots : Vector (Option Program) 128
  -- CC: the transaction in progress (R221)
  phase : Phase
  /-- The operand of the `EVALUATE` in progress (R37, R221). -/
  value : DWord
  /-- `result_lo`, kept while the high run is performed (R221 steps 4 to 6). -/
  resultLo : Word
  -- IU
  /-- The accumulator (R20). -/
  acc : Word
  /-- The input register (R21). -/
  inp : Word
  /-- The program counter: an index of whole instructions (R22; its width is log entry 13). -/
  pc : Nat
  /-- The context stack, TOP FIRST; `sp` is its length (R23, R24; log entry 13). -/
  ctx : List Word
  -- SG and XG
  /-- The SplitMix64 state (R27). -/
  sm : DWord
  /-- The first word of the stream generator state (R28). -/
  s0 : DWord
  /-- The second word of the stream generator state (R28). -/
  s1 : DWord
  -- FE (R29)
  /-- The program under construction. -/
  buf : Program
  /-- The running cost of the current attempt. -/
  cost : Nat
  /-- The depth of the current attempt: 5, 4, 3, 2 or 1. -/
  rounds : Nat
  /-- The live grammar activations, newest first. -/
  acts : List Activation
  -- The model's own bookkeeping, which no unit reads to decide anything
  /-- The number of draws of the current fill (log entry 9). -/
  draws : Nat
  /-- How many free values have been taken (log entry 1). -/
  freeCount : Nat
  /-- The sticky fault mark R35 asks a model to keep: the first fault since construction (log entry 8). -/
  faultMark : Option FaultRecord
  deriving DecidableEq, Repr

/-- What an instruction or a step answers. -/
abbrev Result := Host.Outcome State Fault Refusal

/-- The core right after construction with a configuration and a seed block (R38, R232, R270): the
configuration latched, all 128 slots empty, the core idle. The spec leaves every other register
unspecified; here each is zero or empty (DESIGN CHOICE, log entry 3). -/
def State.new (c : Configuration) (m : SeedBlock) : State where
  requests := []
  responses := []
  cfg := c
  seed := m
  slots := Vector.replicate 128 none
  phase := .idle
  value := 0
  resultLo := 0
  acc := 0
  inp := 0
  pc := 0
  ctx := []
  sm := 0
  s0 := 0
  s1 := 0
  buf := []
  cost := 0
  rounds := 0
  acts := []
  draws := 0
  freeCount := 0
  faultMark := none

/-- DESIGN CHOICE (log entry 2). The seed block at reset: 1024 words, the length the spec calls safe
(R53), with nothing listed. -/
def SeedBlock.reset : SeedBlock where
  len := 1024
  cells := []

/-- The machine right after reset, which is construction (R38, R270). -/
def State.reset : State := State.new Configuration.reset SeedBlock.reset

end Sys2Proof.Machine
end

