-- ==== Sys2Proof/Machine/Ops.lean ====
section
/-! DEFINITION. The named operations over the registers and the two memories that every meaning is built
from (R12), and fault entry (R246). -/

namespace Sys2Proof.Machine

/-! ## The seed block -/

/-- The word listed at an address, or zero: what an unlisted address reads as. -/
def cellAt : List (Nat × Word) → Nat → Word
  | [], _ => 0
  | (b, w) :: rest, a => if b = a then w else cellAt rest a

/-- `MemRead(addr, 1)` (R52): the word at `addr`, or nothing when `addr >= SEED_LEN`. The address never
wraps and no default value stands in for a missing word. -/
def SeedBlock.read (m : SeedBlock) (a : Nat) : Option Word :=
  if a < m.len then some (cellAt m.cells a) else none

/-- The addresses strictly rise. -/
def risingFrom : Nat → List (Nat × Word) → Bool
  | _, [] => true
  | lo, (a, _) :: rest => decide (lo ≤ a) && risingFrom (a + 1) rest

/-- The one canonical form of a seed block: addresses strictly rising and below `len`, and no listed word
equal to what an unlisted address reads as. -/
def SeedBlock.wf (m : SeedBlock) : Bool :=
  risingFrom 0 m.cells && m.cells.all fun c => decide (c.1 < m.len) && c.2 != 0

/-- The cells of the words `ws` placed from address `a` on. -/
def cellsFrom : Nat → List Word → List (Nat × Word)
  | _, [] => []
  | a, w :: ws => if w = 0 then cellsFrom (a + 1) ws else (a, w) :: cellsFrom (a + 1) ws

/-- The seed block the host supplies as a sequence of words (R50, R220). It is the only write the block
ever sees: no instruction stores (R55). -/
def SeedBlock.ofWords (ws : List Word) : SeedBlock where
  len := ws.length
  cells := cellsFrom 0 ws

/-! ## The program store -/

/-- The slot a request selects: `value mod 128` (R229). -/
def slotOf (value : DWord) : Fin 128 := ⟨value.toNat % 128, Nat.mod_lt _ (by decide)⟩

/-- The slot of the transaction in progress. -/
def State.slot (s : State) : Fin 128 := slotOf s.value

/-- The program of the slot in use, if the slot is valid (R30). -/
def State.program? (s : State) : Option Program := s.slots.get s.slot

/-- The slot in use takes the program `p` and becomes valid, in one step (R223). -/
def State.storeSlot (s : State) (p : Program) : State :=
  { s with slots := s.slots.set s.slot.val (some p) s.slot.isLt }

/-! ## IU registers -/

/-- `sp`, the number of live context slots (R24). -/
def State.sp (s : State) : Nat := s.ctx.length

/-- `ctx[i]`, counted from the bottom (R23). -/
def State.ctxAt (s : State) (i : Nat) : Option Word := s.ctx.reverse[i]?

/-- `acc <- v; pc <- pc + 1`: how every instruction that computes a value ends. -/
def State.withAcc (s : State) (v : Word) : State := { s with acc := v, pc := s.pc + 1 }

/-- `ctx[sp-1] <- v; pc <- pc + 1` (R141). -/
def State.withTop (s : State) (v : Word) : State := { s with ctx := v :: s.ctx.tail, pc := s.pc + 1 }

/-- `ctx[sp] <- 0; sp <- sp + 1; pc <- pc + 1` (R161). -/
def State.pushSlot (s : State) : State := { s with ctx := 0 :: s.ctx, pc := s.pc + 1 }

/-- `sp <- sp - 1` and, unless that empties the stack, `pc <- pc + 1` (R162). With `sp = 0` the run has
halted: `acc` is its result and no further word is fetched (R163). -/
def State.popSlot (s : State) : State :=
  { s with ctx := s.ctx.tail, pc := if s.ctx.tail = [] then s.pc else s.pc + 1 }

/-! ## Fault entry -/

/-- The numeric code of a fault (R240). -/
def FaultRecord.code : FaultRecord → Nat
  | .budgetExhausted _ => 1
  | .lookupFailed _ _ _ => 2
  | .unknownOpcode _ _ _ => 3
  | .outOfRangeBufferAccess _ _ _ => 4
  | .contextOverflow _ _ => 5
  | .slotOverflow _ _ => 6

/-- FE's working state ends with the fill, returned or discarded (R29, R199, R201). DESIGN CHOICE (log entry
7): the model empties it; the other registers keep their values between transactions (U6). -/
def State.endFill (s : State) : State := { s with buf := [], cost := 0, rounds := 0, acts := [] }

/-- Fault entry (R246), the one way a fault of the core is taken: the transaction ends, the host receives
the fault in place of a result, and the core is idle. Nothing is saved, control goes nowhere, the program
store is as it was, and FE's working state is discarded. There is no return from it (R249). -/
def State.takeFault (s : State) (r : FaultRecord) : State :=
  { s.endFill with
    phase := .idle
    responses := s.responses ++ [.fault r]
    faultMark := s.faultMark.or (some r) }

end Sys2Proof.Machine
end

