-- ==== Sys2Proof/Machine/Prng.lean ====
section
/-! DEFINITION. The generators (40_prng.md): SG is SplitMix64, XG is Xoroshiro128++ or Xoroshiro128**. Each
is a pure function of its state; none is an instruction. The shift amounts and update constants are the
spec's general-knowledge passages G1 to G4, pinned by its known-answer values (log entry 14). Constants stand
to the left of a sum or product: the order changes no value, and a term with the constant on the right can
cost the kernel a count up to it. -/

namespace Sys2Proof.Machine

/-- The increment of SplitMix64 (R90). -/
def sgIncrement : DWord := 0x9E3779B97F4A7C15

/-- The output of SG, mixed from the advanced state (R90). -/
def sgMix (sm : DWord) : DWord :=
  let z := 0xBF58476D1CE4E5B9 * (sm ^^^ (sm >>> 30))
  let z := 0x94D049BB133111EB * (z ^^^ (z >>> 27))
  z ^^^ (z >>> 31)

/-- `SG.next()` (R90): the output and the new state; the state is advanced first. -/
def sgNext (sm : DWord) : DWord × DWord := (sgMix (sgIncrement + sm), sgIncrement + sm)

/-- The state update both variants of XG share, with the variant's constants (R96). -/
def xgUpdate (a b c : Nat) (x : DWord × DWord) : DWord × DWord :=
  let t := x.2 ^^^ x.1
  (rotl64 x.1 a ^^^ t ^^^ (t <<< b), rotl64 t c)

/-- The output function of each variant, read from the state before the update (R93, R94, R95). -/
def xgOutput : Variant → DWord × DWord → DWord
  | .pp, x => rotl64 (x.1 + x.2) 17 + x.1
  | .ss, x => 9 * rotl64 (5 * x.1) 7

/-- The next state of each variant: constants 49, 21, 28 for `PP` and 24, 16, 37 for `SS` (R96). -/
def xgAdvance : Variant → DWord × DWord → DWord × DWord
  | .pp, x => xgUpdate 49 21 28 x
  | .ss, x => xgUpdate 24 16 37 x

/-- `XG.next()` (R93): the output of the old state, and the new state. -/
def xgNext (v : Variant) (x : DWord × DWord) : DWord × (DWord × DWord) := (xgOutput v x, xgAdvance v x)

/-- `SG.seed(x)`, two `SG.next()`, and `XG.seed` with the pair, first output to `s0` (R91, R92, R97, R180,
D18). Seeding mixes nothing and draws nothing. -/
def State.seedGenerators (s : State) (x : DWord) : State :=
  let a := sgNext x
  let b := sgNext a.2
  { s with sm := b.2, s0 := a.1, s1 := b.1 }

/-- `draw()` (R99, R181): one `XG.next()`, of which the low 32 bits are the value; the high 32 bits are
discarded. The count of draws is the model's own (log entry 9). -/
def State.draw (s : State) : Word × State :=
  let r := xgNext s.cfg.variant (s.s0, s.s1)
  (trunc32 r.1, { s with s0 := r.2.1, s1 := r.2.2, draws := s.draws + 1 })

end Sys2Proof.Machine
end

