-- ==== Sys2Proof/Machine/Emitter.lean ====
section
/-! DEFINITION. The fill engine FE (45_emitter.md). One step of the machine performs one activation of the
grammar up to its next call or its end; the live activations are state (R29, R204). -/

namespace Sys2Proof.Machine

/-- What a piece of an attempt answers: it goes on, it is abandoned because a charge passed the budget
(R183), or a lookup found no entry (R185). -/
inductive Emit where
  | ok (s : State)
  | abandoned (s : State)
  | lookupFailed (base residue : Nat) (s : State)

/-- The next piece of an attempt, if the attempt goes on. Abandoning is immediate (R183, D20). -/
def Emit.andThen : Emit → (State → Emit) → Emit
  | .ok s, k => k s
  | .abandoned s, _ => .abandoned s
  | .lookupFailed b r s, _ => .lookupFailed b r s

/-! ## Draws, charges, appends, lookups -/

/-- The slot seed (R222): the 32-bit complement of the slot number above the slot number. -/
def slotSeed (slot : Fin 128) : DWord :=
  ((~~~(BitVec.ofNat 32 slot.val)).setWidth 64 <<< 32) ||| (BitVec.ofNat 32 slot.val).setWidth 64

/-- A coin is even when bit 0 of its draw is 0 (R182). -/
def isEven (d : Word) : Bool := !d.getLsbD 0

/-- `COST[m]` (R184): eleven prices of the source and ten of the configuration. -/
def opCost (c : OpenCosts) : Instr → Nat
  | .loadArg _ => 5
  | .loadInput => c.loadInput
  | .loadFromBuffer _ => 11
  | .loadFromBufferIndirect _ => 13
  | .addArg _ => 5
  | .subtractArg _ => 5
  | .addOne => c.addOne
  | .subtractOne => c.subtractOne
  | .bitwiseNot => c.bitwiseNot
  | .bitwiseXor _ => 5
  | .negate => c.negate
  | .shuffle _ => 21
  | .saveToContext => c.saveToContext
  | .addContext => c.addContext
  | .subtractContext => c.subtractContext
  | .subtractFromContext => 4
  | .multiplyContext => 3
  | .shlContext => 9
  | .shrContext => 9
  | .subroutine => c.subroutine
  | .ret => c.ret

/-- `charge(c)` (R183): the attempt is abandoned when the cost EXCEEDS the budget; equal is within it. -/
def charge (c : Nat) (s : State) : Emit :=
  if s.cost + c > s.cfg.maxCost then .abandoned { s with cost := s.cost + c }
  else .ok { s with cost := s.cost + c }

/-- `append(m, imm)` (R183): the canonical word joins the program and its opcode's cost is charged. -/
def append (i : Instr) (s : State) : Emit :=
  charge (opCost s.cfg.costs i) { s with buf := s.buf ++ [encode i] }

/-- `lookup(r, base, m)` (R185): the first index in the group whose entry equals the residue, compared as
integers, so that an entry that is negative or not below `m` never matches. -/
def lookup (order : Vector Word 17) (base m r : Nat) : Option Nat :=
  ((order.toList.drop base).take m).findIdx? fun e => e.toInt == (r : Int)

/-- One draw reduced modulo `m` and looked up in the group at `base`; the choice goes on with the index.
The reduction is of the 32-bit draw (R181, R185, D19). -/
def select (base m : Nat) (choice : Nat → State → Emit) (s : State) : Emit :=
  let d := s.draw
  match lookup s.cfg.order base m (d.1.toNat % m) with
  | some k => choice k d.2
  | none => .lookupFailed base (d.1.toNat % m) d.2

/-! ## The grammar -/

/-- The three choices of the final phase (R187); the immediate is drawn before the append (D20). -/
def finalChoice (k : Nat) (s : State) : Emit :=
  match k with
  | 0 => append (.loadArg s.draw.1) s.draw.2
  | 1 => append .loadInput s
  | _ => append (.loadFromBuffer (s.draw.1 &&& 0x3FF)) s.draw.2

/-- `emit_final()` (R187). -/
def emitFinal (s : State) : Emit := select 14 3 finalChoice s

/-- Choice 6 of the inner phase (R193): the second draw picks the operator, the third is the immediate;
both are consumed before the append. -/
def addOrSubtract (s : State) : Emit :=
  let c := s.draw
  let v := c.2.draw
  if isEven c.1 = v.2.cfg.addsubEvenIsAdd then append (.addArg v.1) v.2 else append (.subtractArg v.1) v.2

/-- The eight choices of the inner phase (R191). -/
def innerChoice (k : Nat) (s : State) : Emit :=
  match k with
  | 0 => append .bitwiseNot s
  | 1 => append .negate s
  | 2 => append .addOne s
  | 3 => append .subtractOne s
  | 4 => append (.shuffle 0xAAAAAAAA) s
  | 5 => append (.bitwiseXor s.draw.1) s.draw.2
  | 6 => addOrSubtract s
  | _ => append (.loadFromBufferIndirect 0x3FF) s

/-- The six choices of the subroutine phase (R195). -/
def subroutineChoice (k : Nat) (s : State) : Emit :=
  match k with
  | 0 => append .addContext s
  | 1 => append .subtractContext s
  | 2 => append .subtractFromContext s
  | 3 => append .multiplyContext s
  | 4 => append .shlContext s
  | _ => append .shrContext s

/-- What ends an inner production: one choice of eight (R190). -/
def innerEnd (s : State) : Emit := select 0 8 innerChoice s

/-- What ends a subroutine production: one choice of six, then RETURN (R194). -/
def subroutineEnd (s : State) : Emit := (select 8 6 subroutineChoice s).andThen (append .ret)

/-- The production a coin calls at `step` (R189): even is inner, odd is subroutine. -/
def coinCallee (d : Word) (step : Nat) : Activation := if isEven d then .inner step else .subroutine step

/-- `coin_recurse(step)` (R189): one draw, and the callee joins the live activations above its caller,
which waits as `waiting`. -/
def coinRecurse (step : Nat) (waiting : Activation) (s : State) : Emit :=
  .ok { s.draw.2 with acts := coinCallee s.draw.1 step :: waiting :: s.acts }

/-- One activation, already taken off the stack, performed up to its next call or its end (R190, R194).
`none`: the grammar has no such activation. -/
def perform : Activation → State → Option Emit
  | .inner 1, s => some (emitFinal s)
  | .inner (n + 2), s => some (coinRecurse (n + 1) (.innerTail (n + 2)) s)
  | .innerTail _, s => some (innerEnd s)
  | .subroutine 1, s => some (emitFinal s)
  | .subroutine (n + 2), s =>
    some ((append .subroutine s).andThen (coinRecurse (n + 1) (.subroutineMid (n + 2))))
  | .subroutineMid (n + 2), s =>
    some ((append .saveToContext s).andThen (coinRecurse (n + 1) (.subroutineTail (n + 2))))
  | .subroutineTail _, s => some (subroutineEnd s)
  | .inner 0, _ => none
  | .subroutine 0, _ => none
  | .subroutineMid 0, _ => none
  | .subroutineMid 1, _ => none

/-! ## Attempts -/

/-- The head of an attempt (R196): empty buffer, cost 0 (D21), the generators seeded again where
`RESEED_PER_ATTEMPT` says so (R198), and the framing charge of 9. -/
def openAttempt (s : State) : Emit :=
  let s := { s with buf := [], cost := 0, acts := [], phase := .emitting }
  charge 9 (if s.cfg.reseedPerAttempt then s.seedGenerators (slotSeed s.slot) else s)

/-- The step that begins an attempt: its head, then the call of `emit_subroutine(rounds)` (R196). -/
def startAttempt (s : State) : Emit :=
  (openAttempt s).andThen fun s => .ok { s with acts := [.subroutine s.rounds] }

/-- The end of an attempt whose productions are done (R196, R197): the trailing RETURN, then the framing
charge of 5; the buffer is then a whole program. -/
def closeAttempt (s : State) : Emit :=
  ((append .ret s).andThen (charge 5)).andThen fun s => .ok { s with phase := .storing }

/-- An abandoned attempt (R196): one fewer round, or `BudgetExhausted` after the attempt with one round
(R201, R243). Its activations end with it; the stream stays where the last draw left it (R198). -/
def abandonAttempt (s : State) : State :=
  if s.rounds ≤ 1 then s.takeFault (.budgetExhausted s.slot)
  else { s with acts := [], rounds := s.rounds - 1, phase := .attemptStart }

/-- The machine state after a piece of an attempt: a lookup failure ends the fill with the fault and starts
no other attempt (R186, R201). -/
def settle : Emit → State
  | .ok s => s
  | .abandoned s => abandonAttempt s
  | .lookupFailed base residue s => s.takeFault (.lookupFailed s.slot base residue)

/-- The start of `FE.fill` (R180): seed the generators from the slot's seed; the first attempt is that of
five rounds (R196). -/
def beginFill (s : State) : State :=
  { s.seedGenerators (slotSeed s.slot) with rounds := 5, draws := 0, phase := .attemptStart }

/-- One step inside an attempt: the newest activation, or the close when none is left. -/
def emitStep (s : State) : Result :=
  match s.acts with
  | [] => .next (settle (closeAttempt s))
  | a :: rest =>
    match perform a { s with acts := rest } with
    | some e => .next (settle e)
    | none => .fault .malformedActivation

end Sys2Proof.Machine
end

