-- ==== Sys2Proof/Machine/BlackBox.lean ====
section
/-! DEFINITION. The cache controller CC (46_blackbox.md): accepting a transaction, storing a filled slot,
starting the two runs and returning the result. -/

namespace Sys2Proof.Machine

/-- `NEW` (R232, R271): a new block with the configuration and the seed block the host gives. Nothing of
the old block survives; the host's port and the count of free values are not part of the block (log entry
16). -/
def State.construct (s : State) (c : Configuration) (block : List Word) : State :=
  { State.new c (SeedBlock.ofWords block) with
    requests := s.requests, responses := s.responses, freeCount := s.freeCount }

/-- Accept the oldest pending transaction (R220, R221 steps 1 and 2). With none pending the core stays
idle. An empty slot is filled before any run. -/
def acceptRequest (s : State) : State :=
  match s.requests with
  | [] => s
  | .new c block :: rest => { s with requests := rest }.construct c block
  | .evaluate v :: rest =>
    let s := { s with requests := rest, value := v }
    if s.program?.isSome then { s with phase := .runStart .low } else { s with phase := .fillStart }

/-- A program of `len` words fits a slot (R223, R245). -/
def fits (cap : Option Nat) (len : Nat) : Bool :=
  match cap with
  | none => true
  | some c => decide (len ≤ c)

/-- CC stores FE's buffer in the slot, permanently and in one step, and the low run is next; or
`SlotOverflow`, and the slot stays empty (R221 step 2, R223, R245). -/
def storeProgram (s : State) : State :=
  if fits s.cfg.progCap s.buf.length then { (s.storeSlot s.buf).endFill with phase := .runStart .low }
  else s.takeFault (.slotOverflow s.slot s.buf.length)

/-- The input of each run (R224): `trunc_32(value >> 7)`, and its 32-bit complement. -/
def runInput (half : RunHalf) (value : DWord) : Word :=
  match half with
  | .low => trunc32 (value >>> 7)
  | .high => ~~~(trunc32 (value >>> 7))

/-- The start state of a run (R165, R224): `acc <- ACC_INIT` (a free value where that is unwritten, U5),
`inp <- input`, one zero context slot, `pc <- 0`. -/
def startRun (half : RunHalf) (s : State) : State :=
  let s := { s with inp := runInput half s.value, ctx := [0], pc := 0, phase := .running half }
  match s.cfg.accInit with
  | some v => { s with acc := v }
  | none => { s with acc := Config.unwrittenAcc s.freeCount, freeCount := s.freeCount + 1 }

/-- `(result_hi << 32) | result_lo`, each half zero-extended (R226). -/
def packResult (hi lo : Word) : DWord := (hi.setWidth 64 <<< 32) ||| lo.setWidth 64

/-- The end of a run with result `acc` (R166, R221 steps 4 to 6): after the low run the high run; after the
high run the host receives the result and the core is idle. -/
def finishRun (half : RunHalf) (s : State) : State :=
  match half with
  | .low => { s with resultLo := s.acc, phase := .runStart .high }
  | .high => { s with responses := s.responses ++ [.ok (packResult s.acc s.resultLo)], phase := .idle }

end Sys2Proof.Machine
end

