-- ==== Sys2Proof/Machine/Alu.lean ====
section
/-! DEFINITION. Accumulator arithmetic and logic (42_alu.md). Every result is reduced modulo 2^32 and
nothing else changes but `pc` (R120, R121). -/

namespace Sys2Proof.Machine

/-- ADD_ARG (R122): `acc <- trunc_32(acc + imm)`. -/
def execAddArg (imm : Word) (s : State) : Result := .next (s.withAcc (s.acc + imm))

/-- SUBTRACT_ARG (R123): `acc <- trunc_32(acc - imm)`. -/
def execSubtractArg (imm : Word) (s : State) : Result := .next (s.withAcc (s.acc - imm))

/-- ADD_ONE (R124): `acc <- trunc_32(acc + 1)`. -/
def execAddOne (s : State) : Result := .next (s.withAcc (s.acc + 1))

/-- SUBTRACT_ONE (R125): `acc <- trunc_32(acc - 1)`. -/
def execSubtractOne (s : State) : Result := .next (s.withAcc (s.acc - 1))

/-- BITWISE_NOT (R126): `acc <- ~_32(acc)`. -/
def execBitwiseNot (s : State) : Result := .next (s.withAcc (~~~s.acc))

/-- BITWISE_XOR (R127): `acc <- acc ^ imm`. -/
def execBitwiseXor (imm : Word) (s : State) : Result := .next (s.withAcc (s.acc ^^^ imm))

/-- NEGATE (R128): `acc <- trunc_32(2^32 - acc)`. -/
def execNegate (s : State) : Result := .next (s.withAcc (-s.acc))

/-- The value of SHUFFLE (R129): the bits of `acc` selected by `mask` move one place down, the others one
place up; bits moved out of either end are lost and the two groups are combined with or. -/
def shuffleBits (acc mask : Word) : Word := ((acc &&& mask) >>> 1) ||| ((acc &&& ~~~mask) <<< 1)

/-- SHUFFLE (R129). -/
def execShuffle (imm : Word) (s : State) : Result := .next (s.withAcc (shuffleBits s.acc imm))

end Sys2Proof.Machine
end

