-- ==== Sys2Proof/Machine/Operands.lean ====
section
/-! DEFINITION. The operand forms (R12, R73): the immediate as it stands, the input register, the seed
block by a direct or a masked index, and the top context slot as a value or as a shift count. There are
no register operands. -/

namespace Sys2Proof.Machine

/-- The input register (R21, R111). -/
def State.inputOperand (s : State) : Word := s.inp

/-- The effective address of LOAD_FROM_BUFFER: the immediate, unmasked (R112). -/
def directIndex (imm : Word) : Word := imm

/-- The effective address of LOAD_FROM_BUFFER_INDIRECT: the old accumulator masked by the immediate (R113). -/
def maskedIndex (acc imm : Word) : Word := acc &&& imm

/-- The shift count of SHL_CONTEXT and SHR_CONTEXT: the low four bits of the slot, 0 to 15 (R140). -/
def shiftCount (top : Word) : Nat := (top &&& 0xF).toNat

/-- `acc <- MemRead(address, 1); pc <- pc + 1`, or `OutOfRangeBufferAccess` before anything is written
(R52, R112, R113, R242). -/
def loadWord (address : Word) (s : State) : Result :=
  match s.seed.read address.toNat with
  | some w => .next (s.withAcc w)
  | none => .next (s.takeFault (.outOfRangeBufferAccess s.slot s.pc address))

/-- `acc <- f acc top; pc <- pc + 1`: an instruction that combines `acc` with the top slot and leaves the
slot unchanged (R140, R148). An instruction executes only with `sp >= 1` (R24). -/
def combineTop (f : Word → Word → Word) (s : State) : Result :=
  match s.ctx with
  | [] => .fault .emptyContextStack
  | top :: _ => .next (s.withAcc (f s.acc top))

end Sys2Proof.Machine
end

