-- ==== Sys2Proof/Machine/Context.lean ====
section
/-! DEFINITION. The context-slot instructions (43_context.md). They reach the top slot only; the seven
arithmetic and shift instructions leave it unchanged (R148). -/

namespace Sys2Proof.Machine

/-- SAVE_TO_CONTEXT (R141): `ctx[sp-1] <- acc`. -/
def execSaveToContext (s : State) : Result :=
  match s.ctx with
  | [] => .fault .emptyContextStack
  | _ :: _ => .next (s.withTop s.acc)

/-- ADD_CONTEXT (R142): `acc <- trunc_32(acc + top)`. -/
def execAddContext (s : State) : Result := combineTop (fun acc top => acc + top) s

/-- SUBTRACT_CONTEXT (R143): `acc <- trunc_32(acc - top)`. -/
def execSubtractContext (s : State) : Result := combineTop (fun acc top => acc - top) s

/-- SUBTRACT_FROM_CONTEXT (R144): `acc <- trunc_32(top - acc)`. -/
def execSubtractFromContext (s : State) : Result := combineTop (fun acc top => top - acc) s

/-- MULTIPLY_CONTEXT (R145): the low 32 bits of the product. -/
def execMultiplyContext (s : State) : Result := combineTop (fun acc top => acc * top) s

/-- SHL_CONTEXT (R146): `acc <- trunc_32(acc << (top & 0xF))`. -/
def execShlContext (s : State) : Result := combineTop (fun acc top => acc <<< shiftCount top) s

/-- SHR_CONTEXT (R147): `acc <- acc >> (top & 0xF)`, a logical shift (R140, D12). -/
def execShrContext (s : State) : Result := combineTop (fun acc top => acc >>> shiftCount top) s

end Sys2Proof.Machine
end

