-- ==== Sys2Proof/Machine/Control.lean ====
section
/-! DEFINITION. SUBROUTINE and RETURN (44_control.md). They open and close a scope that owns one context
slot; they save no return address, jump nowhere and leave `acc` alone (R160). -/

namespace Sys2Proof.Machine

/-- SUBROUTINE (R161): `ContextOverflow` when `sp = CTX_DEPTH`, before anything is changed (R244; the test is
of equality, log entry 12); else a new top slot with the value 0. -/
def execSubroutine (s : State) : Result :=
  if s.cfg.ctxDepth = some s.sp then .next (s.takeFault (.contextOverflow s.slot s.pc))
  else .next s.pushSlot

/-- RETURN (R162): pop the top slot; popping the last one halts the run with the current `acc` (R163). -/
def execRet (s : State) : Result :=
  match s.ctx with
  | [] => .fault .emptyContextStack
  | _ :: _ => .next s.popSlot

end Sys2Proof.Machine
end

