-- ==== Sys2Proof/Machine/Loads.lean ====
section
/-! DEFINITION. The loads (41_loads.md): the only instructions that bring a value into `acc` from outside
it, and the only ones that read memory (R114). -/

namespace Sys2Proof.Machine

/-- LOAD_ARG (R110): `acc <- imm`. -/
def execLoadArg (imm : Word) (s : State) : Result := .next (s.withAcc imm)

/-- LOAD_INPUT (R111): `acc <- inp`. -/
def execLoadInput (s : State) : Result := .next (s.withAcc s.inputOperand)

/-- LOAD_FROM_BUFFER (R112): `acc <- MemRead(imm, 1)`. -/
def execLoadFromBuffer (imm : Word) (s : State) : Result := loadWord (directIndex imm) s

/-- LOAD_FROM_BUFFER_INDIRECT (R113): `acc <- MemRead(acc & imm, 1)`. -/
def execLoadFromBufferIndirect (imm : Word) (s : State) : Result := loadWord (maskedIndex s.acc imm) s

end Sys2Proof.Machine
end

