-- ==== Sys2Proof/Machine/Dispatch.lean ====
section
/-! DEFINITION. The meaning of every instruction (R165: an exhaustive match over the 21 opcodes). -/

namespace Sys2Proof.Machine

def exec (i : Instr) (s : State) : Host.Outcome State Fault Refusal :=
  match i with
  | .loadArg imm => Sys2Proof.Machine.execLoadArg imm s
  | .loadInput => Sys2Proof.Machine.execLoadInput s
  | .loadFromBuffer imm => Sys2Proof.Machine.execLoadFromBuffer imm s
  | .loadFromBufferIndirect imm => Sys2Proof.Machine.execLoadFromBufferIndirect imm s
  | .addArg imm => Sys2Proof.Machine.execAddArg imm s
  | .subtractArg imm => Sys2Proof.Machine.execSubtractArg imm s
  | .addOne => Sys2Proof.Machine.execAddOne s
  | .subtractOne => Sys2Proof.Machine.execSubtractOne s
  | .bitwiseNot => Sys2Proof.Machine.execBitwiseNot s
  | .bitwiseXor imm => Sys2Proof.Machine.execBitwiseXor imm s
  | .negate => Sys2Proof.Machine.execNegate s
  | .shuffle imm => Sys2Proof.Machine.execShuffle imm s
  | .saveToContext => Sys2Proof.Machine.execSaveToContext s
  | .addContext => Sys2Proof.Machine.execAddContext s
  | .subtractContext => Sys2Proof.Machine.execSubtractContext s
  | .subtractFromContext => Sys2Proof.Machine.execSubtractFromContext s
  | .multiplyContext => Sys2Proof.Machine.execMultiplyContext s
  | .shlContext => Sys2Proof.Machine.execShlContext s
  | .shrContext => Sys2Proof.Machine.execShrContext s
  | .subroutine => Sys2Proof.Machine.execSubroutine s
  | .ret => Sys2Proof.Machine.execRet s

end Sys2Proof.Machine
end

