-- ==== Sys2Proof/Machine/Run.lean ====
section
/-! DEFINITION. The run loop of IU (44_control.md R165): one step fetches, decodes and performs exactly one
instruction, or ends the run. -/

namespace Sys2Proof.Machine

/-- Decode a fetched word and perform it; a word that names no instruction raises `UnknownOpcode` before
any state is changed (R165, R241). -/
def execWord (w : IWord) (s : State) : Result :=
  match decode w with
  | .instr i => exec i s
  | .unknown op => .next (s.takeFault (.unknownOpcode s.slot s.pc op))

/-- One step of a run (R165; that the end of a run is a step of its own is log entry 11). The run has ended at
the halt, `sp = 0`, when no further word is fetched (R163), and at the end of the sequence, `pc = len` (R164);
otherwise `ProgRead` gives the word at `pc` (R57) and it is executed. The slot of a run is valid (R57). -/
def runStep (half : RunHalf) (s : State) : Result :=
  match s.program? with
  | none => .fault .slotNotValid
  | some p =>
    if s.sp = 0 then .next (finishRun half s)
    else
      match p[s.pc]? with
      | none => .next (finishRun half s)
      | some w => execWord w s

/-- The state with the one-word program `w` in the slot in use and a low run standing at it: what
`withFetchWord` needs for the next step to fetch `w` (log entry 5). -/
def State.loadWordProgram (s : State) (w : IWord) : State :=
  { s.storeSlot [w] with phase := .running .low, pc := 0, ctx := [0] }

end Sys2Proof.Machine
end

