-- ==== Sys2Proof/Machine/Step.lean ====
section
/-! DEFINITION. One step of the core: by the point its transaction has reached (R59, R220, R221). -/

namespace Sys2Proof.Machine

/-- One step. Every transaction is a sequence of these and completes before the next is accepted (R220). -/
def step (s : State) : Host.Outcome State Fault Refusal :=
  match s.phase with
  | .idle => .next (acceptRequest s)
  | .fillStart => .next (beginFill s)
  | .attemptStart => .next (settle (startAttempt s))
  | .emitting => emitStep s
  | .storing => .next (storeProgram s)
  | .runStart half => .next (startRun half s)
  | .running half => runStep half s

/-- The state whose next step fetches the instruction with bits `w` (of which `nbits` are given) and runs
exactly it: the slot the request register selects holds that one word, and a run stands at its start. -/
def State.withFetchWord (s : State) (nbits w : Nat) : State :=
  s.loadWordProgram (BitVec.ofNat 40 (w % 2 ^ nbits))

end Sys2Proof.Machine
end

