-- ==== Sys2Proof/Machine/Reference.lean ====
section
/-! DEFINITION. The spec's recursive pseudocode, written as it stands: the productions (R190, R194), the
attempt loop (R196), the run as one pass over the sequence (R165) and the six steps of `EVALUATE` (R221),
over the same draws, appends and meanings as the machine. The machine does not call these: it performs them
step by step, with its activations and its program counter held as state, and the obligations say that the
two agree. -/

namespace Sys2Proof.Machine

/-- The two productions a coin chooses between (R189). -/
inductive Production where
  | inner
  | subroutine
  deriving DecidableEq, Repr

/-- Even is inner, odd is subroutine (R189). -/
def coinProduction (d : Word) : Production := if isEven d then .inner else .subroutine

/-- `emit_inner(n + 1)` and `emit_subroutine(n + 1)` (R190, R194). -/
def emitProduction : Production → Nat → State → Emit
  | _, 0, s => emitFinal s
  | .inner, n + 1, s =>
    (emitProduction (coinProduction s.draw.1) n s.draw.2).andThen innerEnd
  | .subroutine, n + 1, s =>
    (append .subroutine s).andThen fun s =>
    (emitProduction (coinProduction s.draw.1) n s.draw.2).andThen fun s =>
    (append .saveToContext s).andThen fun s =>
    (emitProduction (coinProduction s.draw.1) n s.draw.2).andThen subroutineEnd

/-- One attempt (R196): the framing charge of 9, `emit_subroutine(rounds)`, RETURN, the framing charge of 5. -/
def emitAttempt (s : State) : Emit :=
  ((openAttempt s).andThen (emitProduction .subroutine (s.rounds - 1))).andThen closeAttempt

/-- The attempts from the current `rounds` down (R196): at most `n` of them. The result is the state with
the whole program in `buf`, or the state after the fault of a failed fill (R201). -/
def emitLoop : Nat → State → State
  | 0, s => s
  | n + 1, s =>
    match emitAttempt s with
    | .ok t => t
    | .abandoned t => emitLoop n (abandonAttempt t)
    | .lookupFailed base residue t => settle (.lookupFailed base residue t)

/-- `FE.fill` for the slot in use (R180, R196): five attempts at most. -/
def fillSlot (s : State) : State := emitLoop 5 (beginFill s)

/-- The pass over the sequence from a state of a run (R165): each word in order, until the halt, a fault or
the end of the sequence. -/
def runWords : List IWord → State → State
  | [], s => s
  | w :: ws, s =>
    match execWord w s with
    | .next t => if t.phase = .idle ∨ t.sp = 0 then t else runWords ws t
    | _ => s

/-- One run of the slot's program from its start state to its result or its fault (R165, R166). -/
def performRun (half : RunHalf) (s : State) : State :=
  let t := runWords (s.program?.getD []) (startRun half s)
  if t.phase = .idle then t else finishRun half t

/-- The two runs, the low one first; a fault of the low run ends the transaction (R225). -/
def performRuns (s : State) : State :=
  let t := performRun .low s
  if t.phase = .idle then t else performRun .high t

/-- The fill of an empty slot and the storing of the program; a fault of either ends the transaction (R221
step 2, R223, R227). -/
def performFill (s : State) : State :=
  let t := fillSlot s
  if t.phase = .idle then t else storeProgram t

/-- `EVALUATE(value)` from its acceptance to the answer (R221). -/
def evaluate (value : DWord) (s : State) : State :=
  let s := { s with value := value }
  if s.program?.isSome then performRuns s
  else
    let t := performFill s
    if t.phase = .idle then t else performRuns t

end Sys2Proof.Machine
end

