-- ==== Sys2Proof/Safety.lean ====
section
/-! DEFINITION. What counts as a good state and a good run of the core, in the terms the statements use. -/

namespace Sys2Proof.Machine

/-! ## Runs -/

/-- `n` steps, stopping at the first fault or refusal. -/
def runs : Nat → State → Result
  | 0, s => .next s
  | n + 1, s =>
    match step s with
    | .next t => runs n t
    | .fault r => .fault r
    | .refused r => .refused r

/-- The machine gets from `s` to `t` in some number of steps. -/
def Reaches (s t : State) : Prop := ∃ n, runs n s = .next t

/-! ## Encodings -/

/-- Every word with `op` in bits 39:32 decodes to `make imm` of its bits 31:0; where `make` ignores its
argument the instruction has no immediate and every value of the field decodes alike (R71, R72, R74). -/
def EncodedAs (op : BitVec 8) (make : Word → Instr) : Prop :=
  ∀ imm : Word, decode (op ++ imm) = .instr (make imm)

/-! ## The cost of a program -/

/-- What appending a word cost (R184); a word FE cannot make costs nothing. -/
def wordCost (c : OpenCosts) (w : IWord) : Nat :=
  match decode w with
  | .instr i => opCost c i
  | .unknown _ => 0

/-- The sum of the costs of a program's words (R200). -/
def programCost (c : OpenCosts) (p : Program) : Nat := (p.map (wordCost c)).sum

/-! ## The stream and the pieces of a fill -/

/-- The state of XG after `d` draws (R96, R198). -/
def streamAfter (v : Variant) : Nat → DWord × DWord → DWord × DWord
  | 0, x => x
  | d + 1, x => streamAfter v d (xgAdvance v x)

/-- The three groups of the order table, as base and modulus (R185). -/
def orderGroups : List (Nat × Nat) := [(0, 8), (8, 6), (14, 3)]

/-- A residue of the group at `base` that no entry of the group equals, so that drawing it ends the fill with
`LookupFailed` (R185, R186). -/
def MissingResidue (order : Vector Word 17) (base residue : Nat) : Prop :=
  ∃ m, (base, m) ∈ orderGroups ∧ residue < m ∧ lookup order base m residue = none

/-- The piece of an attempt that the next step performs: its head, its close, or its newest activation (R196;
log entry 11). `none`: the next step is no piece of an attempt. -/
def State.piece? (s : State) : Option Emit :=
  match s.phase, s.acts with
  | .attemptStart, _ => some (startAttempt s)
  | .emitting, [] => some (closeAttempt s)
  | .emitting, a :: rest => perform a { s with acts := rest }
  | _, _ => none

/-! ## The grammar activations -/

/-- The activations below one at step `k`: each waits for the one above it, with a step one higher, up to
the outermost, whose step is `rounds` (R194, R196, R204). -/
def waitingChain (rounds : Nat) : Nat → List Activation → Bool
  | k, [] => k == rounds
  | k, .innerTail n :: rest => n == k + 1 && waitingChain rounds (k + 1) rest
  | k, .subroutineMid n :: rest => n == k + 1 && waitingChain rounds (k + 1) rest
  | k, .subroutineTail n :: rest => n == k + 1 && waitingChain rounds (k + 1) rest
  | _, .inner _ :: _ => false
  | _, .subroutine _ :: _ => false

/-- The least step an activation can have at its point: a production that has called another is at step 2
or more (R190, R194). -/
def Activation.leastStep : Activation → Nat
  | .inner _ => 1
  | .subroutine _ => 1
  | .innerTail _ => 2
  | .subroutineMid _ => 2
  | .subroutineTail _ => 2

/-- The live activations are those of one call of `emit_subroutine(rounds)`. -/
def activationsOk (rounds : Nat) : List Activation → Bool
  | [] => true
  | a :: rest => decide (a.leastStep ≤ a.step) && waitingChain rounds a.step rest

/-! ## The invariant of the core -/

/-- What holds at each point of a transaction. Outside a fill FE has no working state (R29). During a fill
the slot is empty (R221), `rounds` is 1 to 5 (R196), the activations are those of the grammar (R204), and
the running cost is the framing cost plus the cost of the buffer, within the budget (R183, R200). During a
run the slot is valid and `pc` is at most its length (R22, R57). -/
def State.PhaseOk (s : State) : Prop :=
  match s.phase with
  | .idle => s.buf = [] ∧ s.acts = []
  | .fillStart => s.program? = none ∧ s.buf = [] ∧ s.acts = []
  | .attemptStart => s.program? = none ∧ 1 ≤ s.rounds ∧ s.rounds ≤ 5 ∧ s.acts = []
  | .emitting =>
    s.program? = none ∧ 1 ≤ s.rounds ∧ s.rounds ≤ 5 ∧ activationsOk s.rounds s.acts = true ∧
      s.cost = 9 + programCost s.cfg.costs s.buf ∧ s.cost ≤ s.cfg.maxCost
  | .storing =>
    s.program? = none ∧ s.acts = [] ∧
      s.cost = 14 + programCost s.cfg.costs s.buf ∧ s.cost ≤ s.cfg.maxCost
  | .runStart _ => s.program?.isSome = true ∧ s.buf = [] ∧ s.acts = []
  | .running _ =>
    (∃ p, s.program? = some p ∧ s.pc ≤ p.length) ∧ s.buf = [] ∧ s.acts = [] ∧
      ∀ d, s.cfg.ctxDepth = some d → 1 ≤ d → s.sp ≤ d

/-- The invariant every step keeps: the seed block is in its canonical form, every stored program fits its
slot (R30), and the transaction in progress is at a legal point. -/
structure State.Inv (s : State) : Prop where
  seedWf : s.seed.wf = true
  slotFits : ∀ (k : Fin 128) (p : Program), s.slots.get k = some p → fits s.cfg.progCap p.length = true
  phaseOk : s.PhaseOk

/-! ## A store written only by FE -/

/-- Every stored program is the one a fill of its slot makes under the configuration (R31, R36, R203). -/
def State.Coherent (s : State) : Prop :=
  ∀ (value : DWord) (p : Program), s.slots.get (slotOf value) = some p →
    (fillSlot { State.new s.cfg s.seed with value := value }).phase = .storing ∧
      (fillSlot { State.new s.cfg s.seed with value := value }).buf = p

/-- The program of the slot in use has the shape FE gives its programs (R79). -/
def State.FeProgram (s : State) : Prop :=
  ∃ is : List Instr, s.program? = some (is.map encode) ∧ programWellFormed is = true

/-- The longest program a production at `step = n + 1` appends (R205). -/
def longest : Nat → Nat
  | 0 => 1
  | n + 1 => 2 * longest n + 4

/-- The most draws a production at `step = n + 1` consumes (R205). -/
def mostDraws : Nat → Nat
  | 0 => 2
  | n + 1 => 2 * mostDraws n + 3

end Sys2Proof.Machine
end

