-- ==== Sys2Proof/Certificates/Slice0/Obligations.lean ====
section
/-! DEFINITION. The statements. "Stated" ones formalise the rules they name whole; the others are derived
from the sections they name. -/

open Sys2Proof Sys2Proof.Machine

/-! ## The encoding (30_encoding.md) -/

/-- R71 to R74, R76: the decoder reads back every instruction the encoder writes, at every immediate. -/
def Obligations.DecodeReadsBackEveryEncoding : Prop :=
  ∀ i : Instr, decode (encode i) = .instr i

/-- R71, R74: a word that decodes to an instruction is that instruction's encoding but for the bits of an
immediate the opcode does not use, which the canonical encoding writes as 0. -/
def Obligations.DecodedWordIsEncodingUpToIgnoredBits : Prop :=
  ∀ (w : IWord) (i : Instr), decode w = .instr i →
    encode i = if (immediate? i).isSome then w else w &&& 0xFF00000000

/-- R75, R76: exactly the words with `op` above 0x14 name no instruction, and the decoder names their `op`. -/
def Obligations.UnknownWordsAreThoseAboveOpcodeFourteen : Prop :=
  ∀ (w : IWord) (op : BitVec 8),
    decode w = .unknown op ↔ (op.toNat = w.toNat / 2 ^ 32 ∧ 0x15 ≤ w.toNat / 2 ^ 32)

/-- Words written out from the spec's encoding of them (R71, R72; 95_test_vectors.md V19). -/
def Obligations.SampleWordsDecodeAsTheSpecLists : Prop :=
  decode 0x0000000007 = .instr (.loadArg 7) ∧ decode 0x01DEADBEEF = .instr .loadInput ∧
  decode 0x0BAAAAAAAA = .instr (.shuffle 0xAAAAAAAA) ∧ decode 0x0C00000000 = .instr .saveToContext ∧
  decode 0x14FFFFFFFF = .instr .ret ∧ decode 0x1500000000 = .unknown 0x15 ∧
  decode 0x7F12345678 = .unknown 0x7F

/-! ## Loads (41_loads.md) -/

/-- R110, R111: the immediate and the input register, as they stand. -/
def Obligations.LoadArgAndLoadInputWriteTheAccumulator : Prop :=
  (EncodedAs 0x00 .loadArg ∧
    ∀ imm s, exec (.loadArg imm) s = .next { s with acc := imm, pc := s.pc + 1 }) ∧
  (EncodedAs 0x01 (fun _ => .loadInput) ∧
    ∀ s, exec .loadInput s = .next { s with acc := s.inp, pc := s.pc + 1 })

/-- R112: the word at the unmasked index, or the fault with nothing written. -/
def Obligations.LoadFromBufferReadsItsIndexOrFaults : Prop :=
  EncodedAs 0x02 .loadFromBuffer ∧ ∀ (imm : Word) (s : State),
    (imm.toNat < s.seed.len → ∃ w, s.seed.read imm.toNat = some w ∧
      exec (.loadFromBuffer imm) s = .next { s with acc := w, pc := s.pc + 1 }) ∧
    (s.seed.len ≤ imm.toNat → exec (.loadFromBuffer imm) s =
      .next (s.takeFault (.outOfRangeBufferAccess s.slot s.pc imm)))

/-- R113: the word at the old accumulator masked by the immediate, or the fault with nothing written. -/
def Obligations.LoadFromBufferIndirectMasksTheAccumulator : Prop :=
  EncodedAs 0x03 .loadFromBufferIndirect ∧ ∀ (imm : Word) (s : State),
    ((s.acc &&& imm).toNat < s.seed.len → ∃ w, s.seed.read (s.acc &&& imm).toNat = some w ∧
      exec (.loadFromBufferIndirect imm) s = .next { s with acc := w, pc := s.pc + 1 }) ∧
    (s.seed.len ≤ (s.acc &&& imm).toNat → exec (.loadFromBufferIndirect imm) s =
      .next (s.takeFault (.outOfRangeBufferAccess s.slot s.pc (s.acc &&& imm))))

/-! ## Accumulator arithmetic and logic (42_alu.md) -/

/-- R122 to R125: the sum or difference of the unsigned values, reduced modulo 2^32. -/
def Obligations.AddAndSubtractWrapModulo : Prop :=
  (EncodedAs 0x04 .addArg ∧ ∀ (imm : Word) (s : State), exec (.addArg imm) s =
    .next { s with acc := BitVec.ofNat 32 (s.acc.toNat + imm.toNat), pc := s.pc + 1 }) ∧
  (EncodedAs 0x05 .subtractArg ∧ ∀ (imm : Word) (s : State), exec (.subtractArg imm) s =
    .next { s with acc := BitVec.ofNat 32 (2 ^ 32 + s.acc.toNat - imm.toNat), pc := s.pc + 1 }) ∧
  (EncodedAs 0x06 (fun _ => .addOne) ∧ ∀ s : State, exec .addOne s =
    .next { s with acc := BitVec.ofNat 32 (s.acc.toNat + 1), pc := s.pc + 1 }) ∧
  (EncodedAs 0x07 (fun _ => .subtractOne) ∧ ∀ s : State, exec .subtractOne s =
    .next { s with acc := BitVec.ofNat 32 (2 ^ 32 - 1 + s.acc.toNat), pc := s.pc + 1 })

/-- R126, R128: the 32-bit complement and the two's complement negation, as numbers. -/
def Obligations.NotAndNegateAreTakenInThirtyTwoBits : Prop :=
  (EncodedAs 0x08 (fun _ => .bitwiseNot) ∧ ∀ s : State, exec .bitwiseNot s =
    .next { s with acc := BitVec.ofNat 32 (2 ^ 32 - 1 - s.acc.toNat), pc := s.pc + 1 }) ∧
  (EncodedAs 0x0A (fun _ => .negate) ∧ ∀ s : State, exec .negate s =
    .next { s with acc := BitVec.ofNat 32 (2 ^ 32 - s.acc.toNat), pc := s.pc + 1 })

/-- R127, R129: exclusive or, bit by bit; and the shuffle as the or of the selected bits halved and the other
bits doubled modulo 2^32. -/
def Obligations.XorIsBitwiseAndShuffleJoinsTwoShifts : Prop :=
  (EncodedAs 0x09 .bitwiseXor ∧ ∀ (imm : Word) (s : State),
    ∃ v : Word, exec (.bitwiseXor imm) s = .next { s with acc := v, pc := s.pc + 1 } ∧
      ∀ j < 32, v.getLsbD j = (s.acc.getLsbD j != imm.getLsbD j)) ∧
  (EncodedAs 0x0B .shuffle ∧ ∀ (imm : Word) (s : State),
    ∃ down up : Word, exec (.shuffle imm) s = .next { s with acc := down ||| up, pc := s.pc + 1 } ∧
      down.toNat = (s.acc &&& imm).toNat / 2 ∧ up.toNat = (s.acc &&& ~~~imm).toNat * 2 % 2 ^ 32)

/-! ## Context-slot instructions (43_context.md) -/

/-- R141: the top slot, and nothing else but `pc`. -/
def Obligations.SaveToContextWritesTheTopSlotOnly : Prop :=
  EncodedAs 0x0C (fun _ => .saveToContext) ∧
  ∀ (s : State) (top : Word) (below : List Word), s.ctx = top :: below →
    exec .saveToContext s = .next { s with ctx := s.acc :: below, pc := s.pc + 1 }

/-- R142 to R145: sums, differences and the low half of the product, as numbers; the slot is unchanged. -/
def Obligations.ContextArithmeticWrapsModulo : Prop :=
  ∀ (s : State) (top : Word) (below : List Word), s.ctx = top :: below →
    (EncodedAs 0x0D (fun _ => .addContext) ∧ exec .addContext s =
      .next { s with acc := BitVec.ofNat 32 (s.acc.toNat + top.toNat), pc := s.pc + 1 }) ∧
    (EncodedAs 0x0E (fun _ => .subtractContext) ∧ exec .subtractContext s =
      .next { s with acc := BitVec.ofNat 32 (2 ^ 32 + s.acc.toNat - top.toNat), pc := s.pc + 1 }) ∧
    (EncodedAs 0x0F (fun _ => .subtractFromContext) ∧ exec .subtractFromContext s =
      .next { s with acc := BitVec.ofNat 32 (2 ^ 32 + top.toNat - s.acc.toNat), pc := s.pc + 1 }) ∧
    (EncodedAs 0x10 (fun _ => .multiplyContext) ∧ exec .multiplyContext s =
      .next { s with acc := BitVec.ofNat 32 (s.acc.toNat * top.toNat), pc := s.pc + 1 })

/-- R146, R147: shifts by the low four bits of the slot, as multiplication and division by a power of two;
the right shift is logical. -/
def Obligations.ContextShiftsUseTheLowFourBits : Prop :=
  ∀ (s : State) (top : Word) (below : List Word), s.ctx = top :: below →
    (EncodedAs 0x11 (fun _ => .shlContext) ∧ exec .shlContext s = .next
      { s with acc := BitVec.ofNat 32 (s.acc.toNat * 2 ^ (top.toNat % 16)), pc := s.pc + 1 }) ∧
    (EncodedAs 0x12 (fun _ => .shrContext) ∧ exec .shrContext s = .next
      { s with acc := BitVec.ofNat 32 (s.acc.toNat / 2 ^ (top.toNat % 16)), pc := s.pc + 1 })

/-! ## Control (44_control.md) -/

/-- R161: a new zero slot, or `ContextOverflow` with nothing changed when the stack is full. -/
def Obligations.SubroutinePushesAZeroSlotOrOverflows : Prop :=
  EncodedAs 0x13 (fun _ => .subroutine) ∧ ∀ s : State,
    (s.cfg.ctxDepth ≠ some s.ctx.length →
      exec .subroutine s = .next { s with ctx := 0 :: s.ctx, pc := s.pc + 1 }) ∧
    (s.cfg.ctxDepth = some s.ctx.length →
      exec .subroutine s = .next (s.takeFault (.contextOverflow s.slot s.pc)))

/-- R162: RETURN pops the top slot; with slots left `pc` moves on, and popping the last slot halts with `acc`
(R163, R166): the low run hands over to the high run, and the high run answers the two results packed (R221,
R226). That the end of the run is the next step and not the RETURN's own is the model's choice (log entry 11). -/
def Obligations.ReturnPopsASlotOrHaltsTheRun : Prop :=
  EncodedAs 0x14 (fun _ => .ret) ∧
  (∀ (s : State) (top next : Word) (below : List Word), s.ctx = top :: next :: below →
    exec .ret s = .next { s with ctx := next :: below, pc := s.pc + 1 }) ∧
  (∀ (s : State) (top : Word) (p : Program), s.ctx = [top] → s.program? = some p →
    exec .ret s = .next { s with ctx := [] } ∧
    (s.phase = .running .low → step { s with ctx := [] } =
      .next { s with ctx := [], resultLo := s.acc, phase := .runStart .high }) ∧
    (s.phase = .running .high → ∃ r : DWord, r.toNat = s.acc.toNat * 2 ^ 32 + s.resultLo.toNat ∧
      step { s with ctx := [] } =
        .next { s with ctx := [], responses := s.responses ++ [.ok r], phase := .idle }))

/-- R36, R165: an instruction writes IU's registers and nothing else, or it takes a fault. -/
def Obligations.InstructionsWriteOnlyIuRegisters : Prop :=
  ∀ (i : Instr) (s t : State), exec i s = .next t →
    (∃ acc ctx pc, t = { s with acc := acc, ctx := ctx, pc := pc }) ∨ ∃ r, t = s.takeFault r

/-- R165: when the word at `pc` of the running program decodes to an instruction, the step is that
instruction's meaning and nothing around it. -/
def Obligations.StepRunsTheDecodedInstruction : Prop :=
  ∀ (s : State) (half : RunHalf) (p : Program) (w : IWord) (i : Instr),
    s.phase = .running half → s.program? = some p → s.ctx ≠ [] → p[s.pc]? = some w →
    decode w = .instr i → step s = exec i s

/-- R75, R241, R246: a word that names no instruction raises `UnknownOpcode` when `pc` reaches it, with nothing
changed before. -/
def Obligations.UnknownOpcodeFaultsWhenReached : Prop :=
  ∀ (s : State) (half : RunHalf) (p : Program) (w : IWord),
    s.phase = .running half → s.program? = some p → s.ctx ≠ [] → p[s.pc]? = some w →
    0x15 ≤ w.toNat / 2 ^ 32 →
    step s = .next (s.takeFault (.unknownOpcode s.slot s.pc (w.extractLsb' 32 8)))

/-- R163, R164, R226: a run that has halted or has no word left ends with result `acc`: the low run hands
over to the high run, and the high run answers the host with the two results packed. That the end of a run is
a step of its own, which finds the stack empty after a halt, is the model's choice (log entry 11). -/
def Obligations.RunEndsAtHaltOrEndOfSequence : Prop :=
  ∀ (s : State) (p : Program), s.program? = some p → (s.ctx = [] ∨ p.length ≤ s.pc) →
    (s.phase = .running .low → step s = .next { s with resultLo := s.acc, phase := .runStart .high }) ∧
    (s.phase = .running .high → ∃ r : DWord, r.toNat = s.acc.toNat * 2 ^ 32 + s.resultLo.toNat ∧
      step s = .next { s with responses := s.responses ++ [.ok r], phase := .idle })

/-- R163: words after the RETURN that empties the stack never run, whatever they are. -/
def Obligations.WordsAfterTheHaltNeverRun : Prop :=
  ∀ (ws extra : List IWord) (s : State), s.sp ≠ 0 → (runWords ws s).sp = 0 →
    runWords (ws ++ extra) s = runWords ws s

/-! ## Faults, reset, transactions (46_blackbox.md, 60_exceptions.md, 70_reset_and_hazards.md) -/

/-- R246, R247: a step that answers a fault leaves the core idle with IU as it was before the step, and
leaves the program store, the configuration, the seed block and the pending transactions alone. R246 calls the
registers dead after a fault: that the idle state keeps `acc`, `inp`, `pc`, `ctx` and `value` is the model's
choice (log entry 7), and so is the list of pending transactions (log entry 4). -/
def Obligations.FaultsArePreciseAndLeaveTheStoreAlone : Prop :=
  ∀ (s t : State) (r : FaultRecord), step s = .next t → t.responses = s.responses ++ [.fault r] →
    t.phase = .idle ∧ t.slots = s.slots ∧ t.cfg = s.cfg ∧ t.seed = s.seed ∧ t.requests = s.requests ∧
      t.acc = s.acc ∧ t.inp = s.inp ∧ t.pc = s.pc ∧ t.ctx = s.ctx ∧ t.value = s.value

/-- R240: the six fault codes. -/
def Obligations.FaultCodesAreOneToSix : Prop :=
  ∀ (slot : Fin 128) (n m : Nat) (op : BitVec 8) (address : Word),
    (FaultRecord.budgetExhausted slot).code = 1 ∧ (FaultRecord.lookupFailed slot n m).code = 2 ∧
    (FaultRecord.unknownOpcode slot n op).code = 3 ∧
    (FaultRecord.outOfRangeBufferAccess slot n address).code = 4 ∧
    (FaultRecord.contextOverflow slot n).code = 5 ∧ (FaultRecord.slotOverflow slot n).code = 6

/-- R38, R270: right after reset the core is idle, every slot is empty, and a step does nothing. -/
def Obligations.ResetIsIdleWithEverySlotEmpty : Prop :=
  State.reset.phase = .idle ∧ (∀ k : Fin 128, State.reset.slots.get k = none) ∧
    step State.reset = .next State.reset

/-- R232, R270, R271: `NEW` latches the configuration and the seed block, word by word, and empties every
slot; it answers nothing (R220). That the pending requests and the earlier answers stay is the model's choice
(log entries 4 and 16). -/
def Obligations.NewLatchesTheConfigurationAndEmptiesTheStore : Prop :=
  ∀ (s : State) (c : Configuration) (block : List Word) (rest : List Request),
    s.phase = .idle → s.requests = .new c block :: rest →
    ∃ t, step s = .next t ∧ t.phase = .idle ∧ t.cfg = c ∧ (∀ k : Fin 128, t.slots.get k = none) ∧
      t.seed.len = block.length ∧ (∀ a, t.seed.read a = block[a]?) ∧
      t.requests = rest ∧ t.responses = s.responses

/-- R220, R221 steps 1 and 2, R229: `EVALUATE`, the oldest pending request (log entry 4), is accepted when the
core is idle; the low seven bits select the slot, and an empty slot is filled first. -/
def Obligations.EvaluateIsAcceptedAndSelectsItsSlot : Prop :=
  ∀ (s : State) (v : DWord) (rest : List Request), s.phase = .idle → s.requests = .evaluate v :: rest →
    ∀ k : Fin 128, k.val = v.toNat % 128 →
    (s.slots.get k = none →
      step s = .next { s with requests := rest, value := v, phase := .fillStart }) ∧
    (s.slots.get k ≠ none →
      step s = .next { s with requests := rest, value := v, phase := .runStart .low })

/-- R180, R222: the fill seeds SG with the complement of the slot number above the slot number, and XG with
SG's first two outputs, first to `s0`; the attempt of five rounds is next (R196). That `rounds` is written in
this step and the attempt's head is a step of its own is the model's choice (log entry 11). -/
def Obligations.FillSeedsTheGeneratorsFromTheSlotNumber : Prop :=
  ∀ (s : State) (seed : DWord), s.phase = .fillStart →
    seed.toNat = (2 ^ 32 - 1 - s.value.toNat % 128) * 2 ^ 32 + s.value.toNat % 128 →
    ∃ t, step s = .next t ∧ t.phase = .attemptStart ∧ t.rounds = 5 ∧
      t.s0 = (sgNext seed).1 ∧ t.s1 = (sgNext (sgNext seed).2).1 ∧ t.sm = (sgNext (sgNext seed).2).2

/-- R90: SG adds its constant modulo 2^64 and mixes the advanced state by two xor-shift-multiply rounds and a
final xor-shift. The shift amounts are the spec's passage G1. The constants stand to the left of each sum and
product. -/
def Obligations.SeedGeneratorMixesTheAdvancedState : Prop :=
  ∀ sm : DWord, ∃ y z : DWord,
    (sgNext sm).2.toNat = (0x9E3779B97F4A7C15 + sm.toNat) % 2 ^ 64 ∧
    y.toNat = (0xBF58476D1CE4E5B9 * ((sgNext sm).2 ^^^ ((sgNext sm).2 >>> 30)).toNat) % 2 ^ 64 ∧
    z.toNat = (0x94D049BB133111EB * (y ^^^ (y >>> 27)).toNat) % 2 ^ 64 ∧
    (sgNext sm).1 = z ^^^ (z >>> 31)

/-- R93 to R96, R99: each variant's output function of the old state and its update of it, with true
rotations; a draw is one such call, of which the low 32 bits are the value. The update is the spec's passages
G2 to G4; the count of draws is the model's own (log entry 9). -/
def Obligations.StreamGeneratorOutputsThenUpdates : Prop :=
  (∀ s0 s1 : DWord, xgNext .pp (s0, s1) = ((s0 + s1).rotateLeft 17 + s0,
    (s0.rotateLeft 49 ^^^ (s1 ^^^ s0) ^^^ ((s1 ^^^ s0) <<< 21), (s1 ^^^ s0).rotateLeft 28))) ∧
  (∀ s0 s1 : DWord, xgNext .ss (s0, s1) = (9 * (5 * s0).rotateLeft 7,
    (s0.rotateLeft 24 ^^^ (s1 ^^^ s0) ^^^ ((s1 ^^^ s0) <<< 16), (s1 ^^^ s0).rotateLeft 37))) ∧
  ∀ s : State, s.draw.1.toNat = (xgNext s.cfg.variant (s.s0, s.s1)).1.toNat % 2 ^ 32 ∧
    (s.draw.2.s0, s.draw.2.s1) = (xgNext s.cfg.variant (s.s0, s.s1)).2 ∧
    s.draw.2 = { s with s0 := s.draw.2.s0, s1 := s.draw.2.s1, draws := s.draws + 1 }

/-- R98 (the spec's derivation): the all-zero state is a fixed point with output 0 that no other state leads
to, and no slot's seed gives it. -/
def Obligations.StreamIsNeverSeededWithZero : Prop :=
  (∀ v : Variant, xgNext v (0, 0) = (0, (0, 0))) ∧
  (∀ (v : Variant) (x : DWord × DWord), xgAdvance v x = (0, 0) → x = (0, 0)) ∧
  (∀ s : State, ¬ ((beginFill s).s0 = 0 ∧ (beginFill s).s1 = 0))

/-! ## The fill engine (45_emitter.md) -/

/-- R185: lookup answers the first index of the group whose entry equals the residue as an integer, and
fails exactly when there is none. -/
def Obligations.LookupIsTheFirstEqualEntry : Prop :=
  ∀ (order : Vector Word 17) (base m r : Nat), base + m ≤ 17 →
    (∀ k, lookup order base m r = some k ↔
      k < m ∧ (order.toList.getD (base + k) 0).toInt = r ∧
        ∀ j < k, (order.toList.getD (base + j) 0).toInt ≠ r) ∧
    (lookup order base m r = none ↔ ∀ j < m, (order.toList.getD (base + j) 0).toInt ≠ r)

/-- R183: an append adds the canonical word and charges its opcode; a cost equal to the budget is within it
and a greater one abandons the attempt at once, whatever piece was to follow. -/
def Obligations.AppendChargesAndTheBudgetIsInclusive : Prop :=
  (∀ (c : Nat) (s : State),
    (s.cost + c ≤ s.cfg.maxCost → charge c s = .ok { s with cost := s.cost + c }) ∧
    (s.cfg.maxCost < s.cost + c →
      ∃ t, charge c s = .abandoned t ∧ ∀ k, (charge c s).andThen k = .abandoned t)) ∧
  ∀ (i : Instr) (s : State),
    append i s = charge (opCost s.cfg.costs i) { s with buf := s.buf ++ [encode i] }

/-- R184: the eleven prices of the source, and the ten the configuration supplies. -/
def Obligations.CostTableHasElevenPricesAndTenParameters : Prop :=
  ∀ (c : OpenCosts) (imm : Word),
    opCost c (.loadArg imm) = 5 ∧ opCost c (.loadFromBuffer imm) = 11 ∧
    opCost c (.loadFromBufferIndirect imm) = 13 ∧ opCost c (.addArg imm) = 5 ∧
    opCost c (.subtractArg imm) = 5 ∧ opCost c (.bitwiseXor imm) = 5 ∧ opCost c (.shuffle imm) = 21 ∧
    opCost c .subtractFromContext = 4 ∧ opCost c .multiplyContext = 3 ∧
    opCost c .shlContext = 9 ∧ opCost c .shrContext = 9 ∧
    opCost c .loadInput = c.loadInput ∧ opCost c .addOne = c.addOne ∧
    opCost c .subtractOne = c.subtractOne ∧ opCost c .bitwiseNot = c.bitwiseNot ∧
    opCost c .negate = c.negate ∧ opCost c .saveToContext = c.saveToContext ∧
    opCost c .addContext = c.addContext ∧ opCost c .subtractContext = c.subtractContext ∧
    opCost c .subroutine = c.subroutine ∧ opCost c .ret = c.ret

/-- R187, R188: the final phase appends the load its lookup selects, with its immediate drawn after the
selection. -/
def Obligations.FinalPhaseAppendsTheSelectedLoad : Prop :=
  ∀ s t : State, emitFinal s = .ok t →
    ∃ k, lookup s.cfg.order 14 3 (s.draw.1.toNat % 3) = some k ∧
      t.buf = s.buf ++ [encode (match k with
        | 0 => .loadArg s.draw.2.draw.1
        | 1 => .loadInput
        | _ => .loadFromBuffer (s.draw.2.draw.1 &&& 0x3FF))]

/-- R191, R192, R193: the inner phase appends the operation its lookup selects; choice 6 takes its operator
from the parity of the second draw and its immediate from the third. -/
def Obligations.InnerPhaseAppendsTheSelectedOperation : Prop :=
  ∀ s t : State, innerEnd s = .ok t →
    ∃ k, lookup s.cfg.order 0 8 (s.draw.1.toNat % 8) = some k ∧
      t.buf = s.buf ++ [encode (match k with
        | 0 => .bitwiseNot
        | 1 => .negate
        | 2 => .addOne
        | 3 => .subtractOne
        | 4 => .shuffle 0xAAAAAAAA
        | 5 => .bitwiseXor s.draw.2.draw.1
        | 6 => if (s.draw.2.draw.1.toNat % 2 == 0) = s.cfg.addsubEvenIsAdd
            then .addArg s.draw.2.draw.2.draw.1 else .subtractArg s.draw.2.draw.2.draw.1
        | _ => .loadFromBufferIndirect 0x3FF)]

/-- R194, R195: the subroutine phase appends the operation its lookup selects and then RETURN. -/
def Obligations.SubroutinePhaseAppendsTheSelectedOperationAndReturn : Prop :=
  ∀ s t : State, subroutineEnd s = .ok t →
    ∃ k, lookup s.cfg.order 8 6 (s.draw.1.toNat % 6) = some k ∧
      t.buf = s.buf ++ [encode (match k with
        | 0 => .addContext
        | 1 => .subtractContext
        | 2 => .subtractFromContext
        | 3 => .multiplyContext
        | 4 => .shlContext
        | _ => .shrContext), encode .ret]

/-- R205 (the spec's derivation): a production at step `n + 1` appends at least one word and at most `longest
n`, and consumes at most `mostDraws n` draws. -/
def Obligations.ProductionsAreBoundedInWordsAndDraws : Prop :=
  ∀ (k : Production) (n : Nat) (s t : State), emitProduction k n s = .ok t →
    ∃ p : Program, t.buf = s.buf ++ p ∧ 1 ≤ p.length ∧ p.length ≤ longest n ∧
      t.draws ≤ s.draws + mostDraws n

/-- R79, R197, R200, R205 (in part the spec's derivation): a completed attempt leaves a program FE's shape
describes: scopes nested and closed, the last word the halting RETURN, 2 to 77 words, and its costs with both
framing costs within the budget. -/
def Obligations.CompletedAttemptsAreWellFormedAndWithinBudget : Prop :=
  ∀ s t : State, 1 ≤ s.rounds → s.rounds ≤ 5 → emitAttempt s = .ok t →
    ∃ is : List Instr, t.buf = is.map encode ∧ programWellFormed is = true ∧
      2 ≤ is.length ∧ is.length ≤ 77 ∧ 14 + programCost s.cfg.costs t.buf ≤ s.cfg.maxCost ∧
      t.draws ≤ s.draws + 77

/-- R207 (the spec's derivation): the first word of a completed program that is not SUBROUTINE is a load that
writes `acc` without reading it. -/
def Obligations.CompletedProgramsLoadBeforeTheyRead : Prop :=
  ∀ s t : State, emitAttempt s = .ok t →
    ∃ (n : Nat) (i : Instr) (rest : Program), i.isFinal = true ∧
      t.buf = List.replicate n (encode .subroutine) ++ encode i :: rest

/-- R207, U5: for a program that loads before it reads, the accumulator a run starts with (where it is
unwritten, the model's free value, log entry 1) changes neither the answer nor, unless a fault has ended the
run, any part of the state. -/
def Obligations.StartingAccumulatorCannotBeSeen : Prop :=
  ∀ (n : Nat) (i : Instr) (rest : Program) (s : State) (a : Word), i.isFinal = true → s.phase ≠ .idle →
    let ws := List.replicate n (encode .subroutine) ++ encode i :: rest
    (runWords ws { s with acc := a }).responses = (runWords ws s).responses ∧
      (runWords ws { s with acc := a }).phase = (runWords ws s).phase ∧
      ((runWords ws s).phase ≠ .idle → runWords ws { s with acc := a } = runWords ws s)

/-- R185, R186, R201, R243, R202 (the spec's derivation): when a fill fails, and how. A draw whose residue no
entry of its phase's group equals ends the fill with `LookupFailed` of the slot, the group and the residue. A
fill that returns no program answers that, with a residue that is missing, or `BudgetExhausted` of the slot,
and leaves the store as it was. Below `14 + COST_RETURN + min(5, 11, COST_LOAD_INPUT)` every fill fails, and
with a total order table by `BudgetExhausted`. -/
def Obligations.TooSmallABudgetFailsEveryFill : Prop :=
  ∀ s : State,
    (s.phase = .emitting →
      (∀ n rest, s.acts = .innerTail n :: rest → lookup s.cfg.order 0 8 (s.draw.1.toNat % 8) = none →
        step s = .next (s.draw.2.takeFault (.lookupFailed s.slot 0 (s.draw.1.toNat % 8)))) ∧
      (∀ n rest, s.acts = .subroutineTail n :: rest → lookup s.cfg.order 8 6 (s.draw.1.toNat % 6) = none →
        step s = .next (s.draw.2.takeFault (.lookupFailed s.slot 8 (s.draw.1.toNat % 6)))) ∧
      (∀ rest, (s.acts = .inner 1 :: rest ∨ s.acts = .subroutine 1 :: rest) →
        lookup s.cfg.order 14 3 (s.draw.1.toNat % 3) = none →
        step s = .next (s.draw.2.takeFault (.lookupFailed s.slot 14 (s.draw.1.toNat % 3))))) ∧
    ((fillSlot s).phase = .storing ∨
      ((fillSlot s).phase = .idle ∧ (fillSlot s).slots = s.slots ∧
        ((fillSlot s).responses = s.responses ++ [.fault (.budgetExhausted s.slot)] ∨
          ∃ base residue, MissingResidue s.cfg.order base residue ∧
            (fillSlot s).responses = s.responses ++ [.fault (.lookupFailed s.slot base residue)]))) ∧
    (s.cfg.maxCost < 14 + s.cfg.costs.ret + min 5 (min 11 s.cfg.costs.loadInput) →
      (fillSlot s).phase = .idle ∧ (fillSlot s).slots = s.slots ∧
        (∃ r : FaultRecord, (fillSlot s).responses = s.responses ++ [.fault r]) ∧
        (s.cfg.orderTotal = true →
          (fillSlot s).responses = s.responses ++ [.fault (.budgetExhausted s.slot)]))

/-- R183, R196, R198, R201, R243: an attempt begins with an empty buffer, the framing charge of 9 and the call
of `emit_subroutine(rounds)`, its stream going on where it stood or, under `RESEED_PER_ATTEMPT`, seeded again
from the slot's seed. A piece of it that passes the budget abandons it: an attempt with one round fewer is next,
its stream where the last draw left it, or `BudgetExhausted` of the slot after the attempt with one round. Which
piece a step performs, and what stands in `buf` and `cost` until the next attempt's head, are the model's
choices (log entries 11 and 7). -/
def Obligations.AttemptsStartFreshAndRetryWithOneRoundFewer : Prop :=
  ∀ s : State,
    (s.phase = .attemptStart → 9 ≤ s.cfg.maxCost →
      (s.cfg.reseedPerAttempt = false →
        step s = .next { s with
          phase := .emitting, buf := [], cost := 9, acts := [.subroutine s.rounds] }) ∧
      (s.cfg.reseedPerAttempt = true → ∀ seed : DWord,
        seed.toNat = (2 ^ 32 - 1 - s.value.toNat % 128) * 2 ^ 32 + s.value.toNat % 128 →
        step s = .next { s with
          phase := .emitting, buf := [], cost := 9, acts := [.subroutine s.rounds],
          sm := (sgNext (sgNext seed).2).2, s0 := (sgNext seed).1, s1 := (sgNext (sgNext seed).2).1 })) ∧
    (s.phase = .attemptStart → s.cfg.maxCost < 9 → ∃ u, s.piece? = some (.abandoned u) ∧
      (s.cfg.reseedPerAttempt = false → u = { s with phase := .emitting, buf := [], cost := 9, acts := [] })) ∧
    ∀ u, s.piece? = some (.abandoned u) →
      s.cfg.maxCost < u.cost ∧
      (2 ≤ s.rounds → step s = .next { u with acts := [], rounds := s.rounds - 1, phase := .attemptStart }) ∧
      (s.rounds ≤ 1 → step s = .next (u.takeFault (.budgetExhausted s.slot))) ∧
      (s.phase = .emitting → ∃ d, u = { s with
        s0 := (streamAfter s.cfg.variant d (s.s0, s.s1)).1, s1 := (streamAfter s.cfg.variant d (s.s0, s.s1)).2,
        draws := s.draws + d, buf := u.buf, cost := u.cost, acts := u.acts })

/-- R186, R202, R205, R273: when every group of `ORDER` contains every residue and the budget is at least
`25 + COST_RETURN` with `COST_LOAD_INPUT <= 11`, every fill returns a program; where slots hold 77 words, it
fills its slot, and the machine gets there. -/
def Obligations.SufficientConfigurationsFillEverySlot : Prop :=
  ∀ s : State, s.cfg.orderTotal = true → s.cfg.budgetSuffices = true →
    (fillSlot s).phase = .storing ∧
    (capacityAtLeast 77 s.cfg.progCap = true →
      (performFill s).phase = .runStart .low ∧
      (performFill s).slots.get s.slot = some (fillSlot s).buf ∧
      (∀ k : Fin 128, k ≠ s.slot → (performFill s).slots.get k = s.slots.get k) ∧
      (s.phase = .fillStart → Reaches s (performFill s)))

/-- R189, R190, R194, R204: the machine's steps on a called activation perform the recursive production, and
end with the callers' activations as they were. How much one step performs is the model's choice (log entry
11). -/
def Obligations.ActivationsPerformTheRecursiveProductions : Prop :=
  ∀ (n : Nat) (s : State) (rest : List Activation), s.phase = .emitting →
    (s.acts = .inner (n + 1) :: rest →
      Reaches s (settle (emitProduction .inner n { s with acts := rest }))) ∧
    (s.acts = .subroutine (n + 1) :: rest →
      Reaches s (settle (emitProduction .subroutine n { s with acts := rest })))

/-- R205, R280: a fill ends within 121 steps, with the low run next or the core idle after a fault. How much
one step performs, and so the number, is the model's choice (log entry 11). -/
def Obligations.EveryFillEndsWithinBoundedSteps : Prop :=
  ∀ s : State, s.phase = .fillStart →
    ∃ (n : Nat) (t : State), n ≤ 121 ∧ runs n s = .next t ∧ (t.phase = .runStart .low ∨ t.phase = .idle)

/-- R223, R245: FE's finished program fills the slot in one step, or, longer than `PROG_CAP`, leaves it
empty with `SlotOverflow`. -/
def Obligations.StoringFillsTheSlotOrOverflows : Prop :=
  ∀ s : State, s.phase = .storing →
    ((∀ c, s.cfg.progCap = some c → s.buf.length ≤ c) → ∃ t, step s = .next t ∧
      t.phase = .runStart .low ∧ t.slots.get s.slot = some s.buf ∧
      (∀ k : Fin 128, k ≠ s.slot → t.slots.get k = s.slots.get k)) ∧
    (∀ c, s.cfg.progCap = some c → c < s.buf.length →
      step s = .next (s.takeFault (.slotOverflow s.slot s.buf.length)))

/-! ## The two runs (44_control.md, 46_blackbox.md) -/

/-- R165, R224: each run starts with bits 38:7 of the request or their complement as input, one zero context
slot, `pc = 0`, and `ACC_INIT` in `acc` where the configuration gives one. -/
def Obligations.RunsStartWithTheFoldedInputOrItsComplement : Prop :=
  ∀ (s : State) (half : RunHalf), s.phase = .runStart half →
    ∃ t, step s = .next t ∧ t.phase = .running half ∧ t.pc = 0 ∧ t.ctx = [0] ∧
      t.inp.toNat = (match half with
        | .low => s.value.toNat / 2 ^ 7 % 2 ^ 32
        | .high => 2 ^ 32 - 1 - s.value.toNat / 2 ^ 7 % 2 ^ 32) ∧
      (∀ a, s.cfg.accInit = some a → t.acc = a) ∧
      t.slots = s.slots ∧ t.seed = s.seed ∧ t.cfg = s.cfg ∧ t.value = s.value ∧ t.resultLo = s.resultLo

/-- R224, R229: bits 63:39 of a request reach neither the slot number nor the input of either run, and do not
affect the result: two `EVALUATE`s whose operands agree in bits 38:0 are answered alike, and leave the core
alike but for the request register. -/
def Obligations.HighRequestBitsAreUnused : Prop :=
  ∀ v v' : DWord, v.toNat % 2 ^ 39 = v'.toNat % 2 ^ 39 →
    slotOf v = slotOf v' ∧ (∀ half, runInput half v = runInput half v') ∧
    ∀ (s : State) (rest : List Request), s.phase = .idle → s.requests = .evaluate v :: rest →
      ∃ (t : State) (r : Response), t.phase = .idle ∧ t.responses = s.responses ++ [r] ∧
        Reaches s t ∧ Reaches { s with requests := .evaluate v' :: rest } { t with value := v' }

/-- R228 (the spec's derivation): with a seed block of at least 1024 words and at least 5 context slots, the
two runs of a program of FE's shape answer a result, never a fault. -/
def Obligations.FeProgramsNeverFault : Prop :=
  ∀ s : State, s.FeProgram → 1024 ≤ s.seed.len → capacityAtLeast 5 s.cfg.ctxDepth = true →
    ∃ r : DWord, (performRuns s).responses = s.responses ++ [.ok r] ∧ (performRuns s).phase = .idle

/-! ## The core as a whole -/

/-- R221, R225: from the acceptance of an `EVALUATE` the machine's steps (log entry 11) perform the six steps
of the pseudocode. -/
def Obligations.TheMachinePerformsEvaluate : Prop :=
  ∀ (s : State) (v : DWord) (rest : List Request), s.phase = .idle → s.requests = .evaluate v :: rest →
    Reaches s (evaluate v { s with requests := rest })

/-- R220, R280: every accepted `EVALUATE` ends, with exactly one answer and the core idle, and leaves the
configuration and the seed block as they were. -/
def Obligations.EveryEvaluateIsAnsweredOnce : Prop :=
  ∀ (s : State) (v : DWord) (rest : List Request), s.phase = .idle → s.requests = .evaluate v :: rest →
    ∃ (t : State) (r : Response), Reaches s t ∧ t.phase = .idle ∧ t.responses = s.responses ++ [r] ∧
      t.requests = rest ∧ t.cfg = s.cfg ∧ t.seed = s.seed

/-- R220: a step answers the host at most once, and only the end of a transaction answers. -/
def Obligations.AStepAnswersAtMostOnceAndThenIdles : Prop :=
  ∀ s t : State, step s = .next t →
    t.responses = s.responses ∨
      (s.phase ≠ .idle ∧ t.phase = .idle ∧ ∃ r, t.responses = s.responses ++ [r])

/-- The invariant holds at reset. What the seed block and the configuration are at reset, and that FE's buffer
and activations are empty then, are the model's choices (log entries 2 and 3). -/
def Obligations.InvariantHoldsAtReset : Prop := State.reset.Inv

/-- Every step from a state of the invariant keeps it: canonical seed block, programs within capacity, a legal
point of the transaction (R22, R24, R29, R30, R57, R183, R196, R204). The seed block's canonical form (log entry
6), that FE's buffer and activations are empty outside a fill (log entry 7), and the bound on `sp` for a
`CTX_DEPTH` of at least 1 (log entry 12) are the model's choices. -/
def Obligations.EveryStepKeepsTheInvariant : Prop :=
  ∀ s t : State, s.Inv → step s = .next t → t.Inv

/-- R220, R246, R280: from a state of the invariant the model never stops: every step answers a next state,
faults of the core included. The stops it rules out are the model's own (log entry 10). -/
def Obligations.NoStepStopsTheModel : Prop :=
  ∀ s : State, s.Inv → ∃ t, step s = .next t

/-- R31, R36, R63: the program store changes only when CC stores a finished program in its empty slot, or
when `NEW` is accepted; a filled slot is immutable. -/
def Obligations.FilledSlotsAreImmutable : Prop :=
  ∀ s t : State, s.Inv → step s = .next t →
    (∀ k p, s.slots.get k = some p → t.slots.get k = some p) ∧
      (t.slots ≠ s.slots → s.phase = .storing ∧ s.slots.get s.slot = none) ∨
    (s.phase = .idle ∧ ∃ c block rest, s.requests = .new c block :: rest)

/-- R33, R36, R55, R274: only `NEW` changes the configuration or the seed block. -/
def Obligations.OnlyNewChangesTheConfiguration : Prop :=
  ∀ s t : State, step s = .next t →
    (t.cfg = s.cfg ∧ t.seed = s.seed) ∨
      (s.phase = .idle ∧ ∃ c block rest, s.requests = .new c block :: rest ∧ t.cfg = c)

/-- R31, R203, R231: in a core whose every stored program is the one its slot's fill makes, an `EVALUATE`
leaves every stored program the one its slot's fill makes. -/
def Obligations.EvaluateKeepsTheStoreCoherent : Prop :=
  ∀ (s : State) (v : DWord), s.Coherent → (evaluate v s).Coherent

/-- R230: `EVALUATE` is a function of its operand and the configuration: two cores with equal configurations
and seed blocks give equal answers, whatever slots each has filled. -/
def Obligations.EvaluateIsAFunctionOfValueAndConfiguration : Prop :=
  ∀ (s s' t t' : State) (v : DWord) (rest rest' : List Request) (r r' : Response),
    s.Inv → s'.Inv → s.Coherent → s'.Coherent → s.cfg = s'.cfg → s.seed = s'.seed →
    s.phase = .idle → s'.phase = .idle →
    s.requests = .evaluate v :: rest → s'.requests = .evaluate v :: rest' →
    Reaches s t → t.responses = s.responses ++ [r] →
    Reaches s' t' → t'.responses = s'.responses ++ [r'] → r = r'

/-- R273: under the conditions the host owes, an `EVALUATE` on a store written only by FE answers a result. -/
def Obligations.SufficientConfigurationsAlwaysAnswerAResult : Prop :=
  ∀ (s : State) (v : DWord) (rest : List Request),
    s.Coherent → s.cfg.wellFormed = true → 1024 ≤ s.seed.len →
    s.phase = .idle → s.requests = .evaluate v :: rest →
    ∃ (t : State) (r : DWord), Reaches s t ∧ t.phase = .idle ∧ t.responses = s.responses ++ [.ok r]

/-! ## The seed block (20_memory.md) -/

/-- Two canonical seed blocks that read alike are equal (the model's one form, log entry 6). -/
def Obligations.CanonicalSeedBlocksThatReadAlikeAreEqual : Prop :=
  ∀ m m' : SeedBlock, m.wf = true → m'.wf = true → (∀ a, m.read a = m'.read a) → m = m'
end

