-- ==== Sys2Proof/Laws/State.lean ====
section
/-! SUPPORT. One lemma per field per named update of the state, true by definition, so that no later proof
unfolds a record update. -/

namespace Sys2Proof.Machine

/-! ## `State.withAcc` -/

@[simp] theorem State.withAcc_requests (s : State) (v : Word) : (s.withAcc v).requests = s.requests := rfl
@[simp] theorem State.withAcc_responses (s : State) (v : Word) : (s.withAcc v).responses = s.responses := rfl
@[simp] theorem State.withAcc_cfg (s : State) (v : Word) : (s.withAcc v).cfg = s.cfg := rfl
@[simp] theorem State.withAcc_seed (s : State) (v : Word) : (s.withAcc v).seed = s.seed := rfl
@[simp] theorem State.withAcc_slots (s : State) (v : Word) : (s.withAcc v).slots = s.slots := rfl
@[simp] theorem State.withAcc_phase (s : State) (v : Word) : (s.withAcc v).phase = s.phase := rfl
@[simp] theorem State.withAcc_value (s : State) (v : Word) : (s.withAcc v).value = s.value := rfl
@[simp] theorem State.withAcc_resultLo (s : State) (v : Word) : (s.withAcc v).resultLo = s.resultLo := rfl
@[simp] theorem State.withAcc_acc (s : State) (v : Word) : (s.withAcc v).acc = v := rfl
@[simp] theorem State.withAcc_inp (s : State) (v : Word) : (s.withAcc v).inp = s.inp := rfl
@[simp] theorem State.withAcc_pc (s : State) (v : Word) : (s.withAcc v).pc = s.pc + 1 := rfl
@[simp] theorem State.withAcc_ctx (s : State) (v : Word) : (s.withAcc v).ctx = s.ctx := rfl
@[simp] theorem State.withAcc_sm (s : State) (v : Word) : (s.withAcc v).sm = s.sm := rfl
@[simp] theorem State.withAcc_s0 (s : State) (v : Word) : (s.withAcc v).s0 = s.s0 := rfl
@[simp] theorem State.withAcc_s1 (s : State) (v : Word) : (s.withAcc v).s1 = s.s1 := rfl
@[simp] theorem State.withAcc_buf (s : State) (v : Word) : (s.withAcc v).buf = s.buf := rfl
@[simp] theorem State.withAcc_cost (s : State) (v : Word) : (s.withAcc v).cost = s.cost := rfl
@[simp] theorem State.withAcc_rounds (s : State) (v : Word) : (s.withAcc v).rounds = s.rounds := rfl
@[simp] theorem State.withAcc_acts (s : State) (v : Word) : (s.withAcc v).acts = s.acts := rfl
@[simp] theorem State.withAcc_draws (s : State) (v : Word) : (s.withAcc v).draws = s.draws := rfl
@[simp] theorem State.withAcc_freeCount (s : State) (v : Word) : (s.withAcc v).freeCount = s.freeCount := rfl
@[simp] theorem State.withAcc_faultMark (s : State) (v : Word) : (s.withAcc v).faultMark = s.faultMark := rfl
@[simp] theorem State.withAcc_program (s : State) (v : Word) : (s.withAcc v).program? = s.program? := rfl
@[simp] theorem State.withAcc_slot (s : State) (v : Word) : (s.withAcc v).slot = s.slot := rfl

/-! ## `State.withTop` -/

@[simp] theorem State.withTop_requests (s : State) (v : Word) : (s.withTop v).requests = s.requests := rfl
@[simp] theorem State.withTop_responses (s : State) (v : Word) : (s.withTop v).responses = s.responses := rfl
@[simp] theorem State.withTop_cfg (s : State) (v : Word) : (s.withTop v).cfg = s.cfg := rfl
@[simp] theorem State.withTop_seed (s : State) (v : Word) : (s.withTop v).seed = s.seed := rfl
@[simp] theorem State.withTop_slots (s : State) (v : Word) : (s.withTop v).slots = s.slots := rfl
@[simp] theorem State.withTop_phase (s : State) (v : Word) : (s.withTop v).phase = s.phase := rfl
@[simp] theorem State.withTop_value (s : State) (v : Word) : (s.withTop v).value = s.value := rfl
@[simp] theorem State.withTop_resultLo (s : State) (v : Word) : (s.withTop v).resultLo = s.resultLo := rfl
@[simp] theorem State.withTop_acc (s : State) (v : Word) : (s.withTop v).acc = s.acc := rfl
@[simp] theorem State.withTop_inp (s : State) (v : Word) : (s.withTop v).inp = s.inp := rfl
@[simp] theorem State.withTop_pc (s : State) (v : Word) : (s.withTop v).pc = s.pc + 1 := rfl
@[simp] theorem State.withTop_ctx (s : State) (v : Word) : (s.withTop v).ctx = v :: s.ctx.tail := rfl
@[simp] theorem State.withTop_sm (s : State) (v : Word) : (s.withTop v).sm = s.sm := rfl
@[simp] theorem State.withTop_s0 (s : State) (v : Word) : (s.withTop v).s0 = s.s0 := rfl
@[simp] theorem State.withTop_s1 (s : State) (v : Word) : (s.withTop v).s1 = s.s1 := rfl
@[simp] theorem State.withTop_buf (s : State) (v : Word) : (s.withTop v).buf = s.buf := rfl
@[simp] theorem State.withTop_cost (s : State) (v : Word) : (s.withTop v).cost = s.cost := rfl
@[simp] theorem State.withTop_rounds (s : State) (v : Word) : (s.withTop v).rounds = s.rounds := rfl
@[simp] theorem State.withTop_acts (s : State) (v : Word) : (s.withTop v).acts = s.acts := rfl
@[simp] theorem State.withTop_draws (s : State) (v : Word) : (s.withTop v).draws = s.draws := rfl
@[simp] theorem State.withTop_freeCount (s : State) (v : Word) : (s.withTop v).freeCount = s.freeCount := rfl
@[simp] theorem State.withTop_faultMark (s : State) (v : Word) : (s.withTop v).faultMark = s.faultMark := rfl
@[simp] theorem State.withTop_program (s : State) (v : Word) : (s.withTop v).program? = s.program? := rfl
@[simp] theorem State.withTop_slot (s : State) (v : Word) : (s.withTop v).slot = s.slot := rfl

/-! ## `State.pushSlot` -/

@[simp] theorem State.pushSlot_requests (s : State) : (s.pushSlot).requests = s.requests := rfl
@[simp] theorem State.pushSlot_responses (s : State) : (s.pushSlot).responses = s.responses := rfl
@[simp] theorem State.pushSlot_cfg (s : State) : (s.pushSlot).cfg = s.cfg := rfl
@[simp] theorem State.pushSlot_seed (s : State) : (s.pushSlot).seed = s.seed := rfl
@[simp] theorem State.pushSlot_slots (s : State) : (s.pushSlot).slots = s.slots := rfl
@[simp] theorem State.pushSlot_phase (s : State) : (s.pushSlot).phase = s.phase := rfl
@[simp] theorem State.pushSlot_value (s : State) : (s.pushSlot).value = s.value := rfl
@[simp] theorem State.pushSlot_resultLo (s : State) : (s.pushSlot).resultLo = s.resultLo := rfl
@[simp] theorem State.pushSlot_acc (s : State) : (s.pushSlot).acc = s.acc := rfl
@[simp] theorem State.pushSlot_inp (s : State) : (s.pushSlot).inp = s.inp := rfl
@[simp] theorem State.pushSlot_pc (s : State) : (s.pushSlot).pc = s.pc + 1 := rfl
@[simp] theorem State.pushSlot_ctx (s : State) : (s.pushSlot).ctx = 0 :: s.ctx := rfl
@[simp] theorem State.pushSlot_sm (s : State) : (s.pushSlot).sm = s.sm := rfl
@[simp] theorem State.pushSlot_s0 (s : State) : (s.pushSlot).s0 = s.s0 := rfl
@[simp] theorem State.pushSlot_s1 (s : State) : (s.pushSlot).s1 = s.s1 := rfl
@[simp] theorem State.pushSlot_buf (s : State) : (s.pushSlot).buf = s.buf := rfl
@[simp] theorem State.pushSlot_cost (s : State) : (s.pushSlot).cost = s.cost := rfl
@[simp] theorem State.pushSlot_rounds (s : State) : (s.pushSlot).rounds = s.rounds := rfl
@[simp] theorem State.pushSlot_acts (s : State) : (s.pushSlot).acts = s.acts := rfl
@[simp] theorem State.pushSlot_draws (s : State) : (s.pushSlot).draws = s.draws := rfl
@[simp] theorem State.pushSlot_freeCount (s : State) : (s.pushSlot).freeCount = s.freeCount := rfl
@[simp] theorem State.pushSlot_faultMark (s : State) : (s.pushSlot).faultMark = s.faultMark := rfl
@[simp] theorem State.pushSlot_program (s : State) : (s.pushSlot).program? = s.program? := rfl
@[simp] theorem State.pushSlot_slot (s : State) : (s.pushSlot).slot = s.slot := rfl

/-! ## `State.popSlot` -/

@[simp] theorem State.popSlot_requests (s : State) : (s.popSlot).requests = s.requests := rfl
@[simp] theorem State.popSlot_responses (s : State) : (s.popSlot).responses = s.responses := rfl
@[simp] theorem State.popSlot_cfg (s : State) : (s.popSlot).cfg = s.cfg := rfl
@[simp] theorem State.popSlot_seed (s : State) : (s.popSlot).seed = s.seed := rfl
@[simp] theorem State.popSlot_slots (s : State) : (s.popSlot).slots = s.slots := rfl
@[simp] theorem State.popSlot_phase (s : State) : (s.popSlot).phase = s.phase := rfl
@[simp] theorem State.popSlot_value (s : State) : (s.popSlot).value = s.value := rfl
@[simp] theorem State.popSlot_resultLo (s : State) : (s.popSlot).resultLo = s.resultLo := rfl
@[simp] theorem State.popSlot_acc (s : State) : (s.popSlot).acc = s.acc := rfl
@[simp] theorem State.popSlot_inp (s : State) : (s.popSlot).inp = s.inp := rfl
@[simp] theorem State.popSlot_pc (s : State) : (s.popSlot).pc = if s.ctx.tail = [] then s.pc else s.pc + 1 := rfl
@[simp] theorem State.popSlot_ctx (s : State) : (s.popSlot).ctx = s.ctx.tail := rfl
@[simp] theorem State.popSlot_sm (s : State) : (s.popSlot).sm = s.sm := rfl
@[simp] theorem State.popSlot_s0 (s : State) : (s.popSlot).s0 = s.s0 := rfl
@[simp] theorem State.popSlot_s1 (s : State) : (s.popSlot).s1 = s.s1 := rfl
@[simp] theorem State.popSlot_buf (s : State) : (s.popSlot).buf = s.buf := rfl
@[simp] theorem State.popSlot_cost (s : State) : (s.popSlot).cost = s.cost := rfl
@[simp] theorem State.popSlot_rounds (s : State) : (s.popSlot).rounds = s.rounds := rfl
@[simp] theorem State.popSlot_acts (s : State) : (s.popSlot).acts = s.acts := rfl
@[simp] theorem State.popSlot_draws (s : State) : (s.popSlot).draws = s.draws := rfl
@[simp] theorem State.popSlot_freeCount (s : State) : (s.popSlot).freeCount = s.freeCount := rfl
@[simp] theorem State.popSlot_faultMark (s : State) : (s.popSlot).faultMark = s.faultMark := rfl
@[simp] theorem State.popSlot_program (s : State) : (s.popSlot).program? = s.program? := rfl
@[simp] theorem State.popSlot_slot (s : State) : (s.popSlot).slot = s.slot := rfl

/-! ## `State.storeSlot` -/

@[simp] theorem State.storeSlot_requests (s : State) (p : Program) : (s.storeSlot p).requests = s.requests := rfl
@[simp] theorem State.storeSlot_responses (s : State) (p : Program) : (s.storeSlot p).responses = s.responses := rfl
@[simp] theorem State.storeSlot_cfg (s : State) (p : Program) : (s.storeSlot p).cfg = s.cfg := rfl
@[simp] theorem State.storeSlot_seed (s : State) (p : Program) : (s.storeSlot p).seed = s.seed := rfl
@[simp] theorem State.storeSlot_slots (s : State) (p : Program) :
    (s.storeSlot p).slots = s.slots.set s.slot.val (some p) s.slot.isLt := rfl
@[simp] theorem State.storeSlot_phase (s : State) (p : Program) : (s.storeSlot p).phase = s.phase := rfl
@[simp] theorem State.storeSlot_value (s : State) (p : Program) : (s.storeSlot p).value = s.value := rfl
@[simp] theorem State.storeSlot_resultLo (s : State) (p : Program) : (s.storeSlot p).resultLo = s.resultLo := rfl
@[simp] theorem State.storeSlot_acc (s : State) (p : Program) : (s.storeSlot p).acc = s.acc := rfl
@[simp] theorem State.storeSlot_inp (s : State) (p : Program) : (s.storeSlot p).inp = s.inp := rfl
@[simp] theorem State.storeSlot_pc (s : State) (p : Program) : (s.storeSlot p).pc = s.pc := rfl
@[simp] theorem State.storeSlot_ctx (s : State) (p : Program) : (s.storeSlot p).ctx = s.ctx := rfl
@[simp] theorem State.storeSlot_sm (s : State) (p : Program) : (s.storeSlot p).sm = s.sm := rfl
@[simp] theorem State.storeSlot_s0 (s : State) (p : Program) : (s.storeSlot p).s0 = s.s0 := rfl
@[simp] theorem State.storeSlot_s1 (s : State) (p : Program) : (s.storeSlot p).s1 = s.s1 := rfl
@[simp] theorem State.storeSlot_buf (s : State) (p : Program) : (s.storeSlot p).buf = s.buf := rfl
@[simp] theorem State.storeSlot_cost (s : State) (p : Program) : (s.storeSlot p).cost = s.cost := rfl
@[simp] theorem State.storeSlot_rounds (s : State) (p : Program) : (s.storeSlot p).rounds = s.rounds := rfl
@[simp] theorem State.storeSlot_acts (s : State) (p : Program) : (s.storeSlot p).acts = s.acts := rfl
@[simp] theorem State.storeSlot_draws (s : State) (p : Program) : (s.storeSlot p).draws = s.draws := rfl
@[simp] theorem State.storeSlot_freeCount (s : State) (p : Program) : (s.storeSlot p).freeCount = s.freeCount := rfl
@[simp] theorem State.storeSlot_faultMark (s : State) (p : Program) : (s.storeSlot p).faultMark = s.faultMark := rfl
@[simp] theorem State.storeSlot_slot (s : State) (p : Program) : (s.storeSlot p).slot = s.slot := rfl

/-! ## `State.endFill` -/

@[simp] theorem State.endFill_requests (s : State) : (s.endFill).requests = s.requests := rfl
@[simp] theorem State.endFill_responses (s : State) : (s.endFill).responses = s.responses := rfl
@[simp] theorem State.endFill_cfg (s : State) : (s.endFill).cfg = s.cfg := rfl
@[simp] theorem State.endFill_seed (s : State) : (s.endFill).seed = s.seed := rfl
@[simp] theorem State.endFill_slots (s : State) : (s.endFill).slots = s.slots := rfl
@[simp] theorem State.endFill_phase (s : State) : (s.endFill).phase = s.phase := rfl
@[simp] theorem State.endFill_value (s : State) : (s.endFill).value = s.value := rfl
@[simp] theorem State.endFill_resultLo (s : State) : (s.endFill).resultLo = s.resultLo := rfl
@[simp] theorem State.endFill_acc (s : State) : (s.endFill).acc = s.acc := rfl
@[simp] theorem State.endFill_inp (s : State) : (s.endFill).inp = s.inp := rfl
@[simp] theorem State.endFill_pc (s : State) : (s.endFill).pc = s.pc := rfl
@[simp] theorem State.endFill_ctx (s : State) : (s.endFill).ctx = s.ctx := rfl
@[simp] theorem State.endFill_sm (s : State) : (s.endFill).sm = s.sm := rfl
@[simp] theorem State.endFill_s0 (s : State) : (s.endFill).s0 = s.s0 := rfl
@[simp] theorem State.endFill_s1 (s : State) : (s.endFill).s1 = s.s1 := rfl
@[simp] theorem State.endFill_buf (s : State) : (s.endFill).buf = [] := rfl
@[simp] theorem State.endFill_cost (s : State) : (s.endFill).cost = 0 := rfl
@[simp] theorem State.endFill_rounds (s : State) : (s.endFill).rounds = 0 := rfl
@[simp] theorem State.endFill_acts (s : State) : (s.endFill).acts = [] := rfl
@[simp] theorem State.endFill_draws (s : State) : (s.endFill).draws = s.draws := rfl
@[simp] theorem State.endFill_freeCount (s : State) : (s.endFill).freeCount = s.freeCount := rfl
@[simp] theorem State.endFill_faultMark (s : State) : (s.endFill).faultMark = s.faultMark := rfl
@[simp] theorem State.endFill_program (s : State) : (s.endFill).program? = s.program? := rfl
@[simp] theorem State.endFill_slot (s : State) : (s.endFill).slot = s.slot := rfl

/-! ## `State.takeFault` -/

@[simp] theorem State.takeFault_requests (s : State) (r : FaultRecord) : (s.takeFault r).requests = s.requests := rfl
@[simp] theorem State.takeFault_responses (s : State) (r : FaultRecord) :
    (s.takeFault r).responses = s.responses ++ [.fault r] := rfl
@[simp] theorem State.takeFault_cfg (s : State) (r : FaultRecord) : (s.takeFault r).cfg = s.cfg := rfl
@[simp] theorem State.takeFault_seed (s : State) (r : FaultRecord) : (s.takeFault r).seed = s.seed := rfl
@[simp] theorem State.takeFault_slots (s : State) (r : FaultRecord) : (s.takeFault r).slots = s.slots := rfl
@[simp] theorem State.takeFault_phase (s : State) (r : FaultRecord) : (s.takeFault r).phase = .idle := rfl
@[simp] theorem State.takeFault_value (s : State) (r : FaultRecord) : (s.takeFault r).value = s.value := rfl
@[simp] theorem State.takeFault_resultLo (s : State) (r : FaultRecord) : (s.takeFault r).resultLo = s.resultLo := rfl
@[simp] theorem State.takeFault_acc (s : State) (r : FaultRecord) : (s.takeFault r).acc = s.acc := rfl
@[simp] theorem State.takeFault_inp (s : State) (r : FaultRecord) : (s.takeFault r).inp = s.inp := rfl
@[simp] theorem State.takeFault_pc (s : State) (r : FaultRecord) : (s.takeFault r).pc = s.pc := rfl
@[simp] theorem State.takeFault_ctx (s : State) (r : FaultRecord) : (s.takeFault r).ctx = s.ctx := rfl
@[simp] theorem State.takeFault_sm (s : State) (r : FaultRecord) : (s.takeFault r).sm = s.sm := rfl
@[simp] theorem State.takeFault_s0 (s : State) (r : FaultRecord) : (s.takeFault r).s0 = s.s0 := rfl
@[simp] theorem State.takeFault_s1 (s : State) (r : FaultRecord) : (s.takeFault r).s1 = s.s1 := rfl
@[simp] theorem State.takeFault_buf (s : State) (r : FaultRecord) : (s.takeFault r).buf = [] := rfl
@[simp] theorem State.takeFault_cost (s : State) (r : FaultRecord) : (s.takeFault r).cost = 0 := rfl
@[simp] theorem State.takeFault_rounds (s : State) (r : FaultRecord) : (s.takeFault r).rounds = 0 := rfl
@[simp] theorem State.takeFault_acts (s : State) (r : FaultRecord) : (s.takeFault r).acts = [] := rfl
@[simp] theorem State.takeFault_draws (s : State) (r : FaultRecord) : (s.takeFault r).draws = s.draws := rfl
@[simp] theorem State.takeFault_freeCount (s : State) (r : FaultRecord) :
    (s.takeFault r).freeCount = s.freeCount := rfl
@[simp] theorem State.takeFault_faultMark (s : State) (r : FaultRecord) :
    (s.takeFault r).faultMark = s.faultMark.or (some r) := rfl
@[simp] theorem State.takeFault_program (s : State) (r : FaultRecord) : (s.takeFault r).program? = s.program? := rfl
@[simp] theorem State.takeFault_slot (s : State) (r : FaultRecord) : (s.takeFault r).slot = s.slot := rfl

/-! ## `State.draw` -/

@[simp] theorem State.draw_requests (s : State) : (s.draw.2).requests = s.requests := rfl
@[simp] theorem State.draw_responses (s : State) : (s.draw.2).responses = s.responses := rfl
@[simp] theorem State.draw_cfg (s : State) : (s.draw.2).cfg = s.cfg := rfl
@[simp] theorem State.draw_seed (s : State) : (s.draw.2).seed = s.seed := rfl
@[simp] theorem State.draw_slots (s : State) : (s.draw.2).slots = s.slots := rfl
@[simp] theorem State.draw_phase (s : State) : (s.draw.2).phase = s.phase := rfl
@[simp] theorem State.draw_value (s : State) : (s.draw.2).value = s.value := rfl
@[simp] theorem State.draw_resultLo (s : State) : (s.draw.2).resultLo = s.resultLo := rfl
@[simp] theorem State.draw_acc (s : State) : (s.draw.2).acc = s.acc := rfl
@[simp] theorem State.draw_inp (s : State) : (s.draw.2).inp = s.inp := rfl
@[simp] theorem State.draw_pc (s : State) : (s.draw.2).pc = s.pc := rfl
@[simp] theorem State.draw_ctx (s : State) : (s.draw.2).ctx = s.ctx := rfl
@[simp] theorem State.draw_sm (s : State) : (s.draw.2).sm = s.sm := rfl
@[simp] theorem State.draw_s0 (s : State) : (s.draw.2).s0 = (xgAdvance s.cfg.variant (s.s0, s.s1)).1 := rfl
@[simp] theorem State.draw_s1 (s : State) : (s.draw.2).s1 = (xgAdvance s.cfg.variant (s.s0, s.s1)).2 := rfl
@[simp] theorem State.draw_buf (s : State) : (s.draw.2).buf = s.buf := rfl
@[simp] theorem State.draw_cost (s : State) : (s.draw.2).cost = s.cost := rfl
@[simp] theorem State.draw_rounds (s : State) : (s.draw.2).rounds = s.rounds := rfl
@[simp] theorem State.draw_acts (s : State) : (s.draw.2).acts = s.acts := rfl
@[simp] theorem State.draw_draws (s : State) : (s.draw.2).draws = s.draws + 1 := rfl
@[simp] theorem State.draw_freeCount (s : State) : (s.draw.2).freeCount = s.freeCount := rfl
@[simp] theorem State.draw_faultMark (s : State) : (s.draw.2).faultMark = s.faultMark := rfl
@[simp] theorem State.draw_program (s : State) : (s.draw.2).program? = s.program? := rfl
@[simp] theorem State.draw_slot (s : State) : (s.draw.2).slot = s.slot := rfl

/-! ## `State.seedGenerators` -/

@[simp] theorem State.seedGenerators_requests (s : State) (x : DWord) :
    (s.seedGenerators x).requests = s.requests := rfl
@[simp] theorem State.seedGenerators_responses (s : State) (x : DWord) :
    (s.seedGenerators x).responses = s.responses := rfl
@[simp] theorem State.seedGenerators_cfg (s : State) (x : DWord) : (s.seedGenerators x).cfg = s.cfg := rfl
@[simp] theorem State.seedGenerators_seed (s : State) (x : DWord) : (s.seedGenerators x).seed = s.seed := rfl
@[simp] theorem State.seedGenerators_slots (s : State) (x : DWord) : (s.seedGenerators x).slots = s.slots := rfl
@[simp] theorem State.seedGenerators_phase (s : State) (x : DWord) : (s.seedGenerators x).phase = s.phase := rfl
@[simp] theorem State.seedGenerators_value (s : State) (x : DWord) : (s.seedGenerators x).value = s.value := rfl
@[simp] theorem State.seedGenerators_resultLo (s : State) (x : DWord) :
    (s.seedGenerators x).resultLo = s.resultLo := rfl
@[simp] theorem State.seedGenerators_acc (s : State) (x : DWord) : (s.seedGenerators x).acc = s.acc := rfl
@[simp] theorem State.seedGenerators_inp (s : State) (x : DWord) : (s.seedGenerators x).inp = s.inp := rfl
@[simp] theorem State.seedGenerators_pc (s : State) (x : DWord) : (s.seedGenerators x).pc = s.pc := rfl
@[simp] theorem State.seedGenerators_ctx (s : State) (x : DWord) : (s.seedGenerators x).ctx = s.ctx := rfl
@[simp] theorem State.seedGenerators_sm (s : State) (x : DWord) :
    (s.seedGenerators x).sm = sgIncrement + (sgIncrement + x) := rfl
@[simp] theorem State.seedGenerators_s0 (s : State) (x : DWord) :
    (s.seedGenerators x).s0 = sgMix (sgIncrement + x) := rfl
@[simp] theorem State.seedGenerators_s1 (s : State) (x : DWord) :
    (s.seedGenerators x).s1 = sgMix (sgIncrement + (sgIncrement + x)) := rfl
@[simp] theorem State.seedGenerators_buf (s : State) (x : DWord) : (s.seedGenerators x).buf = s.buf := rfl
@[simp] theorem State.seedGenerators_cost (s : State) (x : DWord) : (s.seedGenerators x).cost = s.cost := rfl
@[simp] theorem State.seedGenerators_rounds (s : State) (x : DWord) : (s.seedGenerators x).rounds = s.rounds := rfl
@[simp] theorem State.seedGenerators_acts (s : State) (x : DWord) : (s.seedGenerators x).acts = s.acts := rfl
@[simp] theorem State.seedGenerators_draws (s : State) (x : DWord) : (s.seedGenerators x).draws = s.draws := rfl
@[simp] theorem State.seedGenerators_freeCount (s : State) (x : DWord) :
    (s.seedGenerators x).freeCount = s.freeCount := rfl
@[simp] theorem State.seedGenerators_faultMark (s : State) (x : DWord) :
    (s.seedGenerators x).faultMark = s.faultMark := rfl
@[simp] theorem State.seedGenerators_program (s : State) (x : DWord) : (s.seedGenerators x).program? = s.program? := rfl
@[simp] theorem State.seedGenerators_slot (s : State) (x : DWord) : (s.seedGenerators x).slot = s.slot := rfl

end Sys2Proof.Machine
end

