-- ==== Sys2Proof/Laws/Ops.lean ====
section
/-! SUPPORT. What each shared operation can do, said once: the memories, the loads and context operations,
the pieces of an attempt, and what an instruction can answer. -/

namespace Sys2Proof.Machine

/-! ## The program store -/

theorem storeSlot_get (s : State) (p : Program) (k : Fin 128) :
    (s.storeSlot p).slots.get k = if k = s.slot then some p else s.slots.get k := by
  simp only [State.storeSlot_slots, Vector.get_eq_getElem, Vector.getElem_set, Fin.ext_iff, eq_comm]

@[simp] theorem storeSlot_program (s : State) (p : Program) : (s.storeSlot p).program? = some p := by
  rw [State.program?, State.storeSlot_slot, storeSlot_get, if_pos rfl]

@[simp] theorem new_get (c : Configuration) (m : SeedBlock) (k : Fin 128) :
    (State.new c m).slots.get k = none := by
  simp [State.new, Vector.get_eq_getElem]

@[simp] theorem new_program (c : Configuration) (m : SeedBlock) : (State.new c m).program? = none :=
  new_get c m _

/-! ## The seed block -/

theorem cellsFrom_rising (ws : List Word) : ∀ lo a, lo ≤ a → risingFrom lo (cellsFrom a ws) = true := by
  induction ws with
  | nil => intro lo a _; rfl
  | cons w ws ih =>
    intro lo a h
    unfold cellsFrom
    split
    · exact ih lo (a + 1) (by omega)
    · simp [risingFrom, h, ih (a + 1) (a + 1) (le_refl _)]

theorem cellsFrom_mem (ws : List Word) :
    ∀ a c, c ∈ cellsFrom a ws → a ≤ c.1 ∧ c.1 < a + ws.length ∧ c.2 ≠ 0 := by
  induction ws with
  | nil => intro a c h; simp [cellsFrom] at h
  | cons w ws ih =>
    intro a c h
    unfold cellsFrom at h
    split at h
    · have := ih (a + 1) c h
      simp only [List.length_cons]
      exact ⟨by omega, by omega, this.2.2⟩
    · rcases List.mem_cons.mp h with rfl | h
      · exact ⟨le_refl _, by simp, ‹_›⟩
      · have := ih (a + 1) c h
        simp only [List.length_cons]
        exact ⟨by omega, by omega, this.2.2⟩

/-- The one write of the seed block gives it its canonical form. -/
theorem ofWords_wf (ws : List Word) : (SeedBlock.ofWords ws).wf = true := by
  simp only [SeedBlock.wf, SeedBlock.ofWords, cellsFrom_rising ws 0 0 (le_refl _), Bool.true_and,
    List.all_eq_true, Bool.and_eq_true, bne_iff_ne, ne_eq]
  intro c hc
  have := cellsFrom_mem ws 0 c hc
  rw [Nat.zero_add] at this
  exact ⟨decide_eq_true this.2.1, this.2.2⟩

theorem reset_seed_wf : SeedBlock.reset.wf = true := rfl

theorem cellAt_cellsFrom (ws : List Word) :
    ∀ a b, cellAt (cellsFrom a ws) b = if a ≤ b then (ws[b - a]?).getD 0 else 0 := by
  induction ws with
  | nil => intro a b; simp [cellsFrom, cellAt]
  | cons w ws ih =>
    intro a b
    unfold cellsFrom
    rcases Nat.lt_trichotomy a b with h | h | h
    · obtain ⟨n, rfl⟩ := Nat.exists_eq_add_of_lt h
      have e : a + n + 1 - a = n + 1 := by omega
      have e' : a + n + 1 - (a + 1) = n := by omega
      have e'' : a + 1 ≤ a + n + 1 := by omega
      split <;> simp [cellAt, ih, e, e', e'', show ¬ a = a + n + 1 by omega, show a ≤ a + n + 1 by omega]
    · subst h
      split <;> simp_all [cellAt]
    · split <;> simp [cellAt, ih, show ¬ a + 1 ≤ b by omega, show ¬ a ≤ b by omega, show ¬ a = b by omega]

/-- Reading a block that was given as words gives the word, and nothing past its end. -/
theorem ofWords_read (ws : List Word) (a : Nat) : (SeedBlock.ofWords ws).read a = ws[a]? := by
  simp only [SeedBlock.read, SeedBlock.ofWords, cellAt_cellsFrom]
  split
  · rename_i h; simp [List.getElem?_eq_getElem h]
  · rename_i h; simp [List.getElem?_eq_none (Nat.le_of_not_lt h)]

/-! ## Instructions -/

theorem loadWord_some {a : Word} {s : State} {w : Word} (h : s.seed.read a.toNat = some w) :
    loadWord a s = .next (s.withAcc w) := by simp [loadWord, h]

theorem loadWord_none {a : Word} {s : State} (h : s.seed.read a.toNat = none) :
    loadWord a s = .next (s.takeFault (.outOfRangeBufferAccess s.slot s.pc a)) := by simp [loadWord, h]

theorem combineTop_cons {f : Word → Word → Word} {s : State} {top : Word} {below : List Word}
    (h : s.ctx = top :: below) : combineTop f s = .next (s.withAcc (f s.acc top)) := by
  simp [combineTop, h]

/-- What an instruction answers when it writes IU's registers: `pc` moves on or the run halts, and the stack
grows only by a SUBROUTINE that `CTX_DEPTH` admits. -/
def WritesIu (i : Instr) (s : State) : Prop :=
  ∃ acc ctx pc, exec i s = .next { s with acc := acc, ctx := ctx, pc := pc } ∧
    (pc = s.pc + 1 ∨ (ctx = [] ∧ pc = s.pc)) ∧
    (ctx.length ≤ s.sp ∨ (ctx.length = s.sp + 1 ∧ s.cfg.ctxDepth ≠ some s.sp))

/-- With a nonempty context stack every instruction answers a next state: it writes IU's registers and
nothing else, or it takes a fault. -/
theorem exec_cases (i : Instr) (s : State) (h : s.ctx ≠ []) :
    WritesIu i s ∨ ∃ r, exec i s = .next (s.takeFault r) := by
  obtain ⟨top, below, hc⟩ := List.exists_cons_of_ne_nil h
  have acc : ∀ v, exec i s = .next (s.withAcc v) → WritesIu i s ∨ ∃ r, exec i s = .next (s.takeFault r) :=
    fun v h => .inl ⟨v, s.ctx, s.pc + 1, h, .inl rfl, .inl (le_refl _)⟩
  have load : ∀ a, exec i s = loadWord a s → WritesIu i s ∨ ∃ r, exec i s = .next (s.takeFault r) := by
    intro a he
    rcases hr : s.seed.read a.toNat with _ | w
    · exact .inr ⟨_, he.trans (loadWord_none hr)⟩
    · exact acc w (he.trans (loadWord_some hr))
  have combine : ∀ f, exec i s = combineTop f s → WritesIu i s ∨ ∃ r, exec i s = .next (s.takeFault r) :=
    fun f he => acc _ (he.trans (combineTop_cons hc))
  cases i with
  | loadArg imm => exact acc _ rfl
  | loadInput => exact acc _ rfl
  | loadFromBuffer imm => exact load _ rfl
  | loadFromBufferIndirect imm => exact load _ rfl
  | addArg imm => exact acc _ rfl
  | subtractArg imm => exact acc _ rfl
  | addOne => exact acc _ rfl
  | subtractOne => exact acc _ rfl
  | bitwiseNot => exact acc _ rfl
  | bitwiseXor imm => exact acc _ rfl
  | negate => exact acc _ rfl
  | shuffle imm => exact acc _ rfl
  | saveToContext =>
    refine .inl ⟨s.acc, s.acc :: below, s.pc + 1, ?_, .inl rfl, .inl (by simp [State.sp, hc])⟩
    simp [exec, execSaveToContext, hc, State.withTop]
  | addContext => exact combine _ rfl
  | subtractContext => exact combine _ rfl
  | subtractFromContext => exact combine (fun acc top => top - acc) rfl
  | multiplyContext => exact combine _ rfl
  | shlContext => exact combine (fun acc top => acc <<< shiftCount top) rfl
  | shrContext => exact combine (fun acc top => acc >>> shiftCount top) rfl
  | subroutine =>
    by_cases hd : s.cfg.ctxDepth = some s.sp
    · exact .inr ⟨_, by simp [exec, execSubroutine, hd]; rfl⟩
    · refine .inl ⟨s.acc, 0 :: s.ctx, s.pc + 1, ?_, .inl rfl, .inr ⟨rfl, hd⟩⟩
      simp [exec, execSubroutine, hd, State.pushSlot]
  | ret =>
    refine .inl ⟨s.acc, below, if below = [] then s.pc else s.pc + 1, ?_, ?_, .inl (by simp [State.sp, hc])⟩
    · simp [exec, execRet, hc, State.popSlot]
    · split
      · rename_i hb; exact .inr ⟨hb, rfl⟩
      · exact .inl rfl

/-! ## Encoding -/

theorem opField_append (op : BitVec 8) (imm : Word) : opField (op ++ imm) = op := by
  apply BitVec.eq_of_getLsbD_eq
  intro j hj
  have := BitVec.getLsbD_append (x := op) (y := imm) (i := 32 + j)
  simp only [opField, BitVec.getLsbD_extractLsb', hj, decide_true, Bool.true_and]
  exact this.trans (by simp)

theorem immField_append (op : BitVec 8) (imm : Word) : immField (op ++ imm) = imm := by
  apply BitVec.eq_of_getLsbD_eq
  intro j hj
  have := BitVec.getLsbD_append (x := op) (y := imm) (i := 0 + j)
  simp only [immField, BitVec.getLsbD_extractLsb', hj, decide_true, Bool.true_and]
  exact this.trans (by simp [hj])

/-- A word is its two fields. -/
theorem append_fields (w : IWord) : opField w ++ immField w = w := by
  apply BitVec.eq_of_getLsbD_eq
  intro j hj
  have := BitVec.getLsbD_append (x := opField w) (y := immField w) (i := j)
  refine this.trans ?_
  simp only [opField, immField, BitVec.getLsbD_extractLsb', Nat.zero_add]
  split
  · rename_i h; simp [h]
  · rename_i h
    simp [show j - 32 < 8 by omega, show 32 + (j - 32) = j by omega]

theorem opField_encode (i : Instr) : opField (encode i) = opcode i := opField_append _ _

theorem immField_encode (i : Instr) : immField (encode i) = (immediate? i).getD 0 := immField_append _ _

end Sys2Proof.Machine
end

