-- ==== Sys2Proof/Laws/Emitter.lean ====
section
/-! SUPPORT. What a piece of an attempt can do, said once: it draws, it appends words and charges their
costs, and it touches nothing else; and how two pieces make one. -/

namespace Sys2Proof.Machine

/-- The cost of appending these instructions (R183, R184). -/
def instrCost (c : OpenCosts) (is : List Instr) : Nat := (is.map (opCost c)).sum

@[simp] theorem instrCost_nil (c : OpenCosts) : instrCost c [] = 0 := rfl

@[simp] theorem instrCost_append (c : OpenCosts) (is js : List Instr) :
    instrCost c (is ++ js) = instrCost c is + instrCost c js := by
  simp [instrCost]

@[simp] theorem instrCost_singleton (c : OpenCosts) (i : Instr) : instrCost c [i] = opCost c i := by
  simp [instrCost]

/-- Draws one after the other. -/
theorem streamAfter_add (v : Variant) (d e : Nat) :
    ∀ x, streamAfter v (d + e) x = streamAfter v e (streamAfter v d x) := by
  induction d with
  | zero => intro x; rw [Nat.zero_add]; rfl
  | succ d ih => intro x; rw [Nat.succ_add]; exact ih _

/-- FE gets from `s` to `t` by `d` draws and the appends of `is`. -/
def Emitted (s : State) (d : Nat) (is : List Instr) (t : State) : Prop :=
  t = { s with
    s0 := (streamAfter s.cfg.variant d (s.s0, s.s1)).1, s1 := (streamAfter s.cfg.variant d (s.s0, s.s1)).2,
    draws := s.draws + d, buf := s.buf ++ is.map encode, cost := s.cost + instrCost s.cfg.costs is }

/-- FE stops inside an attempt: only its working state and the stream have moved, the stream by the draws made
(R198). -/
def StoppedAt (s t : State) : Prop :=
  ∃ d buf cost, t = { s with
    s0 := (streamAfter s.cfg.variant d (s.s0, s.s1)).1, s1 := (streamAfter s.cfg.variant d (s.s0, s.s1)).2,
    draws := s.draws + d, buf := buf, cost := cost }

theorem StoppedAt.of_fields (s : State) (buf : Program) (cost : Nat) :
    StoppedAt s { s with buf := buf, cost := cost } := ⟨0, buf, cost, rfl⟩

/-- A piece begun in `s` stays within the budget and makes draws and appends that satisfy `W`, or it stops: by
a charge that passed the budget, or at a lookup of a residue that no entry of its group equals. -/
def Emit.Meets (s : State) (W : Nat → List Instr → Prop) : Emit → Prop
  | .ok t => ∃ d is, Emitted s d is t ∧ t.cost ≤ s.cfg.maxCost ∧ W d is
  | .abandoned t => StoppedAt s t ∧ s.cfg.maxCost < t.cost
  | .lookupFailed base residue t => StoppedAt s t ∧ MissingResidue s.cfg.order base residue

theorem Emitted.trans {s t u : State} {d e : Nat} {is js : List Instr}
    (h : Emitted s d is t) (k : Emitted t e js u) : Emitted s (d + e) (is ++ js) u := by
  subst h
  subst k
  simp [Emitted, streamAfter_add, Nat.add_assoc]

theorem Emitted.stopped {s t u : State} {d : Nat} {is : List Instr}
    (h : Emitted s d is t) (k : StoppedAt t u) : StoppedAt s u := by
  subst h
  obtain ⟨e, buf, cost, rfl⟩ := k
  exact ⟨d + e, buf, cost, by simp [streamAfter_add, Nat.add_assoc]⟩

theorem Emitted.cfg {s t : State} {d : Nat} {is : List Instr} (h : Emitted s d is t) : t.cfg = s.cfg := by
  subst h; rfl

theorem Emit.Meets.mono {s : State} {W V : Nat → List Instr → Prop} {e : Emit}
    (h : e.Meets s W) (k : ∀ d is, W d is → V d is) : e.Meets s V := by
  cases e with
  | ok t => obtain ⟨d, is, a, b, c⟩ := h; exact ⟨d, is, a, b, k d is c⟩
  | abandoned t => exact h
  | lookupFailed b r t => exact h

/-- A piece begun after some draws and appends, seen from before them. -/
theorem Emit.Meets.after {s t : State} {d : Nat} {is : List Instr} {W : Nat → List Instr → Prop} {e : Emit}
    (h : Emitted s d is t) (k : e.Meets t fun d' is' => W (d + d') (is ++ is')) : e.Meets s W := by
  cases e with
  | ok u =>
    obtain ⟨d', is', a, b, c⟩ := k
    exact ⟨_, _, h.trans a, by rw [← h.cfg]; exact b, c⟩
  | abandoned u => exact ⟨h.stopped k.1, h.cfg ▸ k.2⟩
  | lookupFailed b r u => exact ⟨h.stopped k.1, h.cfg ▸ k.2⟩

/-- Two pieces, the second begun where the first ends. -/
theorem Emit.Meets.andThen {s : State} {V W : Nat → List Instr → Prop} {e : Emit} {k : State → Emit}
    (h : e.Meets s V)
    (hk : ∀ t d is, Emitted s d is t → V d is → (k t).Meets t fun d' is' => W (d + d') (is ++ is')) :
    (e.andThen k).Meets s W := by
  cases e with
  | ok t => obtain ⟨d, is, a, _, c⟩ := h; exact (hk t d is a c).after a
  | abandoned t => exact h
  | lookupFailed b r t => exact h

theorem emitted_draw (s : State) : Emitted s 1 [] s.draw.2 := by
  simp [Emitted, State.draw, streamAfter, xgNext]

/-- `append` stays within the budget or abandons the attempt (R183). -/
theorem append_meets (i : Instr) (s : State) : (append i s).Meets s fun d is => d = 0 ∧ is = [i] := by
  unfold append charge
  split
  · exact ⟨StoppedAt.of_fields s _ _, ‹_›⟩
  · rename_i h
    exact ⟨0, [i], by simp [Emitted, streamAfter], Nat.le_of_not_lt h, rfl, rfl⟩

/-- An append after one draw. -/
theorem append_draw_meets (i : Instr) (s : State) :
    (append i s.draw.2).Meets s fun d is => d = 1 ∧ is = [i] :=
  Emit.Meets.after (emitted_draw s)
    ((append_meets i _).mono fun d is h => by simp [h.1, h.2])

/-- One draw and a lookup, then the choice (R185). -/
theorem select_meets {base m : Nat} {choice : Nat → State → Emit} {W : Nat → List Instr → Prop} (s : State)
    (hg : (base, m) ∈ orderGroups)
    (h : ∀ k t, Emitted s 1 [] t → (choice k t).Meets t fun d is => W (1 + d) is) :
    (select base m choice s).Meets s W := by
  have hm : 0 < m := (show ∀ g ∈ orderGroups, 0 < g.2 by decide) _ hg
  unfold select
  simp only
  split
  · rename_i k _
    exact Emit.Meets.after (emitted_draw s) (by simpa using h k _ (emitted_draw s))
  · rename_i hl
    exact ⟨(emitted_draw s).stopped (StoppedAt.of_fields _ _ _), m, hg, Nat.mod_lt _ hm, hl⟩

theorem and_mask_le (v : Word) : (v &&& 0x3FF).toNat ≤ 0x3FF := by
  rw [BitVec.toNat_and]
  exact Nat.and_le_right

/-- `emit_final` appends one load and consumes one or two draws (R187). -/
theorem emitFinal_meets (s : State) :
    (emitFinal s).Meets s fun d is => d ≤ 2 ∧ ∃ i, is = [i] ∧ i.isFinal = true := by
  refine select_meets s (by decide) fun k t _ => ?_
  unfold finalChoice
  split
  · exact (append_draw_meets _ t).mono fun d is h => ⟨by omega, _, h.2, rfl⟩
  · exact (append_meets _ t).mono fun d is h => ⟨by omega, _, h.2, rfl⟩
  · exact (append_draw_meets _ t).mono fun d is h =>
      ⟨by omega, _, h.2, decide_eq_true (and_mask_le _)⟩

theorem addOrSubtract_meets (s : State) :
    (addOrSubtract s).Meets s fun d is => d = 2 ∧ ∃ i, is = [i] ∧ i.isInner = true := by
  unfold addOrSubtract
  simp only
  refine Emit.Meets.after ((emitted_draw s).trans (emitted_draw _)) ?_
  split
  · exact (append_meets _ _).mono fun d is h => ⟨by omega, _, by simp [h.2]; rfl, rfl⟩
  · exact (append_meets _ _).mono fun d is h => ⟨by omega, _, by simp [h.2]; rfl, rfl⟩

/-- The end of an inner production appends one operation and consumes one to three draws (R190, R191). -/
theorem innerEnd_meets (s : State) :
    (innerEnd s).Meets s fun d is => d ≤ 3 ∧ ∃ i, is = [i] ∧ i.isInner = true := by
  refine select_meets s (by decide) fun k t _ => ?_
  unfold innerChoice
  split
  · exact (append_meets _ t).mono fun d is h => ⟨by omega, _, h.2, rfl⟩
  · exact (append_meets _ t).mono fun d is h => ⟨by omega, _, h.2, rfl⟩
  · exact (append_meets _ t).mono fun d is h => ⟨by omega, _, h.2, rfl⟩
  · exact (append_meets _ t).mono fun d is h => ⟨by omega, _, h.2, rfl⟩
  · exact (append_meets _ t).mono fun d is h => ⟨by omega, _, h.2, rfl⟩
  · exact (append_draw_meets _ t).mono fun d is h => ⟨by omega, _, h.2, rfl⟩
  · exact (addOrSubtract_meets t).mono fun d is h => ⟨by omega, h.2⟩
  · exact (append_meets _ t).mono fun d is h => ⟨by omega, _, h.2, rfl⟩

/-- The end of a subroutine production appends one operation and RETURN, and consumes one draw (R194). -/
theorem subroutineEnd_meets (s : State) :
    (subroutineEnd s).Meets s fun d is => d = 1 ∧ ∃ i, is = [i, .ret] ∧ i.isCombine = true := by
  refine Emit.Meets.andThen (V := fun d is => d = 1 ∧ ∃ i, is = [i] ∧ i.isCombine = true) ?_ ?_
  · refine select_meets s (by decide) fun k t _ => ?_
    unfold subroutineChoice
    split <;> exact (append_meets _ t).mono fun d is h => ⟨by omega, _, h.2, rfl⟩
  · rintro t d is _ ⟨rfl, i, rfl, hi⟩
    exact (append_meets _ t).mono fun d is h => ⟨by omega, i, by simp [h.2], hi⟩

end Sys2Proof.Machine
end

