-- ==== Sys2Proof/Laws/PerInstr.lean ====
section
/-! SUPPORT. A law of every instruction as syntax: its word holds its opcode number in bits 39:32, a number of
the table (R72), and in bits 31:0 its immediate, or 0 where it has none (R71, R74). -/

namespace Sys2Proof.Laws.EncodesItsOpcode

open Sys2Proof Sys2Proof.Machine

def Statement (i : Instr) : Prop :=
  opField (encode i) = opcode i ∧ immField (encode i) = (immediate? i).getD 0 ∧ (opcode i).toNat ≤ 0x14

theorem of_number {i : Instr} (h : (opcode i).toNat ≤ 0x14) : Statement i :=
  ⟨opField_encode i, immField_encode i, h⟩

theorem loadArg (imm : Word) : Statement (.loadArg imm) :=
  of_number (show (opcode (.loadArg 0)).toNat ≤ 0x14 by decide)

theorem loadInput : Statement .loadInput := of_number (by decide)

theorem loadFromBuffer (imm : Word) : Statement (.loadFromBuffer imm) :=
  of_number (show (opcode (.loadFromBuffer 0)).toNat ≤ 0x14 by decide)

theorem loadFromBufferIndirect (imm : Word) : Statement (.loadFromBufferIndirect imm) :=
  of_number (show (opcode (.loadFromBufferIndirect 0)).toNat ≤ 0x14 by decide)

theorem addArg (imm : Word) : Statement (.addArg imm) :=
  of_number (show (opcode (.addArg 0)).toNat ≤ 0x14 by decide)

theorem subtractArg (imm : Word) : Statement (.subtractArg imm) :=
  of_number (show (opcode (.subtractArg 0)).toNat ≤ 0x14 by decide)

theorem addOne : Statement .addOne := of_number (by decide)

theorem subtractOne : Statement .subtractOne := of_number (by decide)

theorem bitwiseNot : Statement .bitwiseNot := of_number (by decide)

theorem bitwiseXor (imm : Word) : Statement (.bitwiseXor imm) :=
  of_number (show (opcode (.bitwiseXor 0)).toNat ≤ 0x14 by decide)

theorem negate : Statement .negate := of_number (by decide)

theorem shuffle (imm : Word) : Statement (.shuffle imm) :=
  of_number (show (opcode (.shuffle 0)).toNat ≤ 0x14 by decide)

theorem saveToContext : Statement .saveToContext := of_number (by decide)

theorem addContext : Statement .addContext := of_number (by decide)

theorem subtractContext : Statement .subtractContext := of_number (by decide)

theorem subtractFromContext : Statement .subtractFromContext := of_number (by decide)

theorem multiplyContext : Statement .multiplyContext := of_number (by decide)

theorem shlContext : Statement .shlContext := of_number (by decide)

theorem shrContext : Statement .shrContext := of_number (by decide)

theorem subroutine : Statement .subroutine := of_number (by decide)

theorem ret : Statement .ret := of_number (by decide)

end Sys2Proof.Laws.EncodesItsOpcode
end

