-- ==== Sys2Proof/Laws/Runs.lean ====
section
/-! SUPPORT. Sequences of steps, and what a fetched word, the start of a run and a pass over a program can do,
each said once. -/

namespace Sys2Proof.Machine

/-! ## Sequences of steps -/

theorem runs_add (n m : Nat) : ∀ s t : State, runs n s = .next t → runs (n + m) s = runs m t := by
  induction n with
  | zero => intro s t h; cases h; simp only [Nat.zero_add]
  | succ n ih =>
    intro s t h
    rw [Nat.succ_add]
    simp only [runs] at h ⊢
    split at h
    · exact ih _ t h
    · cases h
    · cases h

theorem Reaches.refl (s : State) : Reaches s s := ⟨0, rfl⟩

theorem Reaches.one {s t : State} (h : step s = .next t) : Reaches s t := ⟨1, by simp [runs, h]⟩

theorem Reaches.trans {s t u : State} (h : Reaches s t) (k : Reaches t u) : Reaches s u := by
  obtain ⟨n, hn⟩ := h
  obtain ⟨m, hm⟩ := k
  exact ⟨n + m, by rw [runs_add n m s t hn, hm]⟩

/-! ## Runs of a program -/

/-- A fetched word, performed with a live context slot: as `exec_cases`, or `UnknownOpcode`. -/
theorem execWord_cases (w : IWord) (s : State) (h : s.ctx ≠ []) :
    (∃ acc ctx pc, execWord w s = .next { s with acc := acc, ctx := ctx, pc := pc } ∧
      (pc = s.pc + 1 ∨ (ctx = [] ∧ pc = s.pc)) ∧
      (ctx.length ≤ s.sp ∨ (ctx.length = s.sp + 1 ∧ s.cfg.ctxDepth ≠ some s.sp))) ∨
    ∃ r, execWord w s = .next (s.takeFault r) := by
  unfold execWord
  cases decode w with
  | unknown op => exact .inr ⟨_, rfl⟩
  | instr i => exact exec_cases i s h

/-- The start of a run writes IU's registers, the phase and the count of free values. -/
theorem startRun_form (half : RunHalf) (s : State) :
    ∃ acc freeCount, startRun half s = { s with
      inp := runInput half s.value, ctx := [0], pc := 0, phase := .running half,
      acc := acc, freeCount := freeCount } := by
  unfold startRun
  cases h : s.cfg.accInit <;> (simp only [h]; exact ⟨_, _, rfl⟩)

/-- A pass over words writes IU's registers, and may end by taking a fault. -/
theorem runWords_form (ws : List IWord) : ∀ s : State, s.ctx ≠ [] →
    ∃ acc ctx pc, runWords ws s = { s with acc := acc, ctx := ctx, pc := pc } ∨
      ∃ r, runWords ws s = State.takeFault { s with acc := acc, ctx := ctx, pc := pc } r := by
  induction ws with
  | nil => intro s _; exact ⟨s.acc, s.ctx, s.pc, .inl rfl⟩
  | cons w ws ih =>
    intro s hc
    unfold runWords
    rcases execWord_cases w s hc with ⟨acc, ctx, pc, e, _, _⟩ | ⟨r, e⟩
    · rw [e]
      simp only
      split
      · exact ⟨_, _, _, .inl rfl⟩
      · rename_i hh
        obtain ⟨a, b, c, h⟩ := ih { s with acc := acc, ctx := ctx, pc := pc }
          fun h => hh (.inr (by simpa [State.sp] using h))
        refine ⟨a, b, c, ?_⟩
        rcases h with h | ⟨r, h⟩
        · exact .inl h
        · exact .inr ⟨r, h⟩
    · rw [e]
      simp only
      rw [if_pos (.inl (State.takeFault_phase _ _))]
      exact ⟨s.acc, s.ctx, s.pc, .inr ⟨r, rfl⟩⟩

end Sys2Proof.Machine
end

