-- ==== Sys2Proof/Machine/Flags.lean ====
section
/-! DEFINITION. Flags: there are none. No instruction records carry, overflow, zero or sign, and none
reads such a record (10_state.md R25; 42_alu.md R120, R121; 43_context.md R140). State has no flag field
and this file has no definition; it stands so that a reader finds the answer where it would be. -/
end

