-- ==== Sys2Proof/Tests/Slice0.lean ====
section
/-! SUPPORT. The model's own tests: ill-formed terms the checks refuse, words written out from the spec's
encoding, one step of each instruction with the value the spec's test vectors give (95_test_vectors.md), the
known-answer values of the generators, and for every statement with hypotheses a case that meets them. -/

namespace Sys2Proof.Tests

open Sys2Proof Sys2Proof.Machine

/-! ## Helpers -/

/-- The next state, if there is one. -/
def after : Result → Option State
  | .next t => some t
  | .fault _ => none
  | .refused _ => none

/-- The accumulator of the next state. -/
def accOf (r : Result) : Option Word := (after r).map (·.acc)

/-- What the host has received after `n` steps. -/
def answers (n : Nat) (s : State) : Option (List Response) := (after (runs n s)).map (·.responses)

theorem of_answers {n : Nat} {s : State} {l : List Response} (h : answers n s = some l) :
    ∃ t, Reaches s t ∧ t.responses = l := by
  unfold answers after at h
  split at h
  · rename_i t ht
    exact ⟨t, ⟨n, ht⟩, by simpa using h⟩
  · cases h
  · cases h

/-- The piece of an attempt that the next step performs is abandoned. -/
def abandons (s : State) : Bool :=
  match s.piece? with
  | some (.abandoned _) => true
  | some (.ok _) => false
  | some (.lookupFailed _ _ _) => false
  | none => false

theorem of_abandons {s : State} (h : abandons s = true) : ∃ u, s.piece? = some (.abandoned u) := by
  unfold abandons at h
  split at h
  · exact ⟨_, ‹_›⟩
  · cases h
  · cases h
  · cases h

/-- A piece of an attempt goes on. -/
def goesOn : Emit → Bool
  | .ok _ => true
  | .abandoned _ => false
  | .lookupFailed _ _ _ => false

theorem of_goesOn {e : Emit} (h : goesOn e = true) : ∃ t, e = .ok t := by
  cases e with
  | ok t => exact ⟨t, rfl⟩
  | abandoned t => cases h
  | lookupFailed b r t => cases h

/-- Four words of the spec's example block, which is `i * 0x9E3779B1` at `i` (95_test_vectors.md section 4). -/
def block : SeedBlock where
  len := 1024
  cells := [(1, 0x9E3779B1), (150, 0xB4814DB6), (632, 0x98F46CF8), (1023, 0x3FAF4A4F)]

/-- A low run of the program `p` at its start, with `acc`, `inp` and the context stack given. -/
def running (p : Program) (acc inp : Word) (ctx : List Word) : State :=
  { State.reset.storeSlot p with
    seed := block, phase := .running .low, acc := acc, inp := inp, ctx := ctx }

/-- The state an instruction is performed in. -/
def at_ (acc : Word) (ctx : List Word) : State := running [0x1400000000] acc 42 ctx

/-- Example configuration EX-A (95_test_vectors.md section 5) with the accumulator it names. -/
def exA : Configuration := { Configuration.reset with accInit := some 0 }

/-! ## Ill-formed terms -/

theorem test_feMade_refuses : Instr.feMade (.loadFromBuffer 0x400) = false ∧
    Instr.feMade (.loadFromBufferIndirect 0x3FE) = false ∧ Instr.feMade (.shuffle 0x55555555) = false := by decide
theorem test_isFinal_refuses : Instr.isFinal (.loadFromBuffer 0x400) = false ∧
    Instr.isFinal .addOne = false := by decide
theorem test_isInner_refuses : Instr.isInner (.shuffle 0) = false ∧ Instr.isInner .loadInput = false := by decide
theorem test_isCombine_refuses : Instr.isCombine .saveToContext = false := by decide
theorem test_scopes_refuse_a_fifth_level : scopesAfter 0 (List.replicate 5 .subroutine) = none := by decide
theorem test_scopes_refuse_an_extra_return : scopesAfter 0 [.subroutine, .ret, .ret] = none := by decide
theorem test_programWellFormed_refuses : programWellFormed [.loadInput] = false ∧
    programWellFormed [.subroutine, .loadInput, .ret] = false ∧
    programWellFormed [.loadFromBuffer 0x400, .ret] = false := by decide
theorem test_orderTotal_refuses_a_missing_residue :
    ({ exA with order := exA.order.set 15 (-1) } : Configuration).orderTotal = false := by decide
theorem test_budgetSuffices_refuses :
    ({ exA with maxCost := 25 } : Configuration).budgetSuffices = false ∧
    ({ exA with costs := { exA.costs with loadInput := 12 } } : Configuration).budgetSuffices = false := by decide
theorem test_capacityAtLeast_refuses : capacityAtLeast 77 (some 76) = false := by decide
theorem test_wellFormed_refuses :
    ({ exA with ctxDepth := some 4 } : Configuration).wellFormed = false ∧
    ({ exA with progCap := some 76 } : Configuration).wellFormed = false := by decide
theorem test_seedBlock_wf_refuses :
    ({ len := 4, cells := [(2, 1), (1, 1)] } : SeedBlock).wf = false ∧
    ({ len := 4, cells := [(1, 0)] } : SeedBlock).wf = false ∧
    ({ len := 4, cells := [(4, 1)] } : SeedBlock).wf = false := by decide
theorem test_activationsOk_refuses :
    activationsOk 2 [.inner 0, .innerTail 1] = false ∧ activationsOk 3 [.inner 1, .innerTail 3] = false := by decide

/-! ## Words written out from the spec's encoding (R71, R72; V19) -/

theorem test_decode_load_arg : decode 0x0000000007 = .instr (.loadArg 7) := by decide
theorem test_decode_load_input : decode 0x01DEADBEEF = .instr .loadInput := by decide
theorem test_decode_load_from_buffer : decode 0x02000003FF = .instr (.loadFromBuffer 0x3FF) := by decide
theorem test_decode_load_from_buffer_indirect :
    decode 0x03000003FF = .instr (.loadFromBufferIndirect 0x3FF) := by decide
theorem test_decode_add_arg : decode 0x0480000001 = .instr (.addArg 0x80000001) := by decide
theorem test_decode_subtract_arg : decode 0x0500000064 = .instr (.subtractArg 0x64) := by decide
theorem test_decode_add_one : decode 0x0600000000 = .instr .addOne := by decide
theorem test_decode_subtract_one : decode 0x0700000001 = .instr .subtractOne := by decide
theorem test_decode_bitwise_not : decode 0x0800000000 = .instr .bitwiseNot := by decide
theorem test_decode_bitwise_xor : decode 0x09FFFFFFFF = .instr (.bitwiseXor 0xFFFFFFFF) := by decide
theorem test_decode_negate : decode 0x0A80000000 = .instr .negate := by decide
theorem test_decode_shuffle : decode 0x0BAAAAAAAA = .instr (.shuffle 0xAAAAAAAA) := by decide
theorem test_decode_save_to_context : decode 0x0C00000000 = .instr .saveToContext := by decide
theorem test_decode_add_context : decode 0x0D00000000 = .instr .addContext := by decide
theorem test_decode_subtract_context : decode 0x0E00000000 = .instr .subtractContext := by decide
theorem test_decode_subtract_from_context : decode 0x0F00000000 = .instr .subtractFromContext := by decide
theorem test_decode_multiply_context : decode 0x1000000000 = .instr .multiplyContext := by decide
theorem test_decode_shl_context : decode 0x1100000000 = .instr .shlContext := by decide
theorem test_decode_shr_context : decode 0x1200000000 = .instr .shrContext := by decide
theorem test_decode_subroutine : decode 0x1300000000 = .instr .subroutine := by decide
theorem test_decode_return : decode 0x14FFFFFFFF = .instr .ret := by decide
theorem test_decode_unknown : decode 0x1500000000 = .unknown 0x15 ∧ decode 0xFF00000000 = .unknown 0xFF ∧
    decode 0x7F12345678 = .unknown 0x7F := by decide
theorem test_table_word : decodeTableWord 40 0x0480000001 = some (.addArg 0x80000001) ∧
    decodeTableWord 40 0x1500000000 = none := by decide

/-! ## One step of each instruction (V12 to V18) -/

theorem test_load_arg : accOf (exec (.loadArg 0xDEADBEEF) (at_ 0x11111111 [0])) = some 0xDEADBEEF := by decide
theorem test_load_input : accOf (exec .loadInput (at_ 0x11111111 [0])) = some 0x2A := by decide
theorem test_load_from_buffer :
    accOf (exec (.loadFromBuffer 0x3FF) (at_ 0 [0])) = some 0x3FAF4A4F := by decide
theorem test_load_from_buffer_past_the_end :
    (after (exec (.loadFromBuffer 0x400) (at_ 5 [0]))).map (fun t => (t.responses, t.acc, t.phase)) =
      some ([.fault (.outOfRangeBufferAccess 0 0 0x400)], 5, .idle) := by decide
theorem test_load_from_buffer_indirect :
    accOf (exec (.loadFromBufferIndirect 0x3FF) (at_ 0x12345678 [0])) = some 0x98F46CF8 := by decide
theorem test_load_from_buffer_indirect_past_the_end :
    (after (exec (.loadFromBufferIndirect 0x7FF) (at_ 0x400 [0]))).map (·.responses) =
      some [.fault (.outOfRangeBufferAccess 0 0 0x400)] := by decide
theorem test_add_arg : accOf (exec (.addArg 0x100) (at_ 0xFFFFFF9C [0])) = some 0x9C := by decide
theorem test_subtract_arg : accOf (exec (.subtractArg 0xFFFFFFFF) (at_ 5 [0])) = some 6 := by decide
theorem test_add_one : accOf (exec .addOne (at_ 0xFFFFFFFF [0])) = some 0 := by decide
theorem test_subtract_one : accOf (exec .subtractOne (at_ 0 [0])) = some 0xFFFFFFFF := by decide
theorem test_bitwise_not : accOf (exec .bitwiseNot (at_ 0x2A [0])) = some 0xFFFFFFD5 := by decide
theorem test_bitwise_xor : accOf (exec (.bitwiseXor 0xFFFF0000) (at_ 0x12345678 [0])) = some 0xEDCB5678 := by decide
theorem test_negate : accOf (exec .negate (at_ 0x80000000 [0])) = some 0x80000000 ∧
    accOf (exec .negate (at_ 0x2A [0])) = some 0xFFFFFFD6 := by decide
theorem test_shuffle : accOf (exec (.shuffle 0xAAAAAAAA) (at_ 0x12345678 [0])) = some 0x2138A9B4 := by decide
theorem test_shuffle_collides : accOf (exec (.shuffle 4) (at_ 5 [0])) = some 2 ∧
    accOf (exec (.shuffle 0x55555555) (at_ 0xFFFFFFFF [0])) = some 0x7FFFFFFE := by decide
theorem test_save_to_context : (after (exec .saveToContext (at_ 0x126 [7, 0, 0]))).map (fun t => (t.ctx, t.acc)) =
    some ([0x126, 0, 0], 0x126) := by decide
theorem test_slots_count_from_the_bottom : (at_ 3 [10, 7]).ctxAt 0 = some 7 ∧ (at_ 3 [10, 7]).ctxAt 1 = some 10 ∧
    (at_ 3 [10, 7]).ctxAt 2 = none := by decide
theorem test_add_context : accOf (exec .addContext (at_ 1 [0xFFFFFFFF])) = some 0 := by decide
theorem test_subtract_context : accOf (exec .subtractContext (at_ 3 [10])) = some 0xFFFFFFF9 := by decide
theorem test_subtract_from_context : accOf (exec .subtractFromContext (at_ 3 [10])) = some 7 := by decide
theorem test_multiply_context :
    accOf (exec .multiplyContext (at_ 0x9ABCDEF0 [0x12345678])) = some 0x242D2080 := by decide
theorem test_shl_context : accOf (exec .shlContext (at_ 0x80000001 [0x1F])) = some 0x8000 := by decide
theorem test_shr_context : accOf (exec .shrContext (at_ 0x80000000 [0xF])) = some 0x10000 ∧
    accOf (exec .shrContext (at_ 0x80000001 [0x10])) = some 0x80000001 := by decide
theorem test_subroutine : (after (exec .subroutine (at_ 9 [0]))).map (fun t => (t.ctx, t.acc, t.pc)) =
    some ([0, 0], 9, 1) := by decide
theorem test_subroutine_overflows :
    (after (exec .subroutine { at_ 9 [0, 0] with cfg := { exA with ctxDepth := some 2 } })).map
      (fun t => (t.responses, t.ctx)) = some ([.fault (.contextOverflow 0 0)], [0, 0]) := by decide
theorem test_return : (after (exec .ret (at_ 756 [294, 0, 0]))).map (fun t => (t.ctx, t.acc, t.pc)) =
    some ([0, 0], 756, 1) := by decide
theorem test_return_halts : (after (exec .ret (at_ 756 [294]))).map (fun t => (t.ctx, t.acc)) =
    some ([], 756) := by decide
theorem test_unknown_opcode :
    (after (step (running [0xFF00000000] 1 0 [0]))).map (·.responses) =
      some [.fault (.unknownOpcode 0 0 0xFF)] := by decide
theorem test_step_fetches_the_placed_word :
    accOf (step (State.reset.withFetchWord 40 0x00DEADBEEF)) = some 0xDEADBEEF := by decide
theorem test_words_behind_the_halt (P4 : Program)
    (h : P4 = [0x0100000000, 0x0A00000000, 0x1400000000, 0xFF00000000, 0x02FFFFFFFF]) :
    (runWords P4 (running P4 0 5 [0])).acc = 0xFFFFFFFB := by
  subst h; decide

/-! ## The generators: the source's known-answer values (V1 to V4), and the first draws of slot 0 -/

theorem test_splitmix : (sgNext 0).1 = 0xE220A8397B1DCDAF ∧
    (sgNext 0x4242424242424242).1 = 0xA0E10B9A572C4B95 ∧
    (sgNext (sgNext 0x4242424242424242).2).1 = 0x967623BBA0906E8B := by decide
theorem test_xoroshiro_plus_plus :
    xgNext .pp (0x0123456789ABCDEF, 0xFEDCBA9876543210) =
      (0x0123456789ABCDEE, (0x9BDE02468AD0ECA8, 0xFFFFFFFFFFFFFFFF)) := by decide
theorem test_xoroshiro_star_star :
    xgNext .ss (0x0123456789ABCDEF, 0xFEDCBA9876543210) =
      (0x9999999999998192, (0x6789ABCDEF01DCBA, 0xFFFFFFFFFFFFFFFF)) ∧
    (xgNext .ss (0x6789ABCDEF01DCBA, 0xFFFFFFFFFFFFFFFF)).1 = 0x99999981A9E65912 := by decide
theorem test_slot_seed : slotSeed 0 = 0xFFFFFFFF00000000 ∧ slotSeed 127 = 0xFFFFFF800000007F := by decide
theorem test_fill_of_slot_zero_is_seeded :
    (beginFill State.reset).s0 = 0x219FC13D6BC5B015 ∧ (beginFill State.reset).s1 = 0x4B18E50A83820B3F := by decide

/-! ## Cases that meet the hypotheses of the statements -/

/-- The host asks for one evaluation of a freshly constructed core. -/
def asked (c : Configuration) (v : DWord) : State :=
  { State.reset with cfg := c, requests := [.evaluate v] }

/-- A configuration whose budget admits exactly the one-round programs that load the input (R202). -/
def tight : Configuration := { exA with maxCost := 16 }

/-- FE about to begin an attempt of slot 0. -/
def attempting (c : Configuration) (rounds : Nat) : State :=
  { asked c 0 with phase := .attemptStart, rounds := rounds }

/-- FE inside an attempt of slot 0, with the activations given. -/
def emitting (c : Configuration) (rounds : Nat) (acts : List Activation) : State :=
  { asked c 0 with phase := .emitting, rounds := rounds, cost := 9, acts := acts }

/-- A configuration whose order table maps no residue. -/
def unmapped : Configuration := { exA with order := Vector.replicate 17 (-1) }

/-- FE about to make one choice, with an order table whose group at `base` holds the drawn residue at index
`k` and nowhere else. -/
def choosing (base m k : Nat) (h : base + k < 17) : State :=
  let s := { State.reset with s0 := 1, s1 := 2, phase := .emitting }
  { s with cfg := { exA with
      order := (Vector.replicate 17 (-1)).set (base + k) (BitVec.ofNat 32 (s.draw.1.toNat % m)) } }

theorem witness_DecodedWordIsEncodingUpToIgnoredBits :
    decode 0x01DEADBEEF = .instr .loadInput ∧ decode 0x00FFFFFFFF = .instr (.loadArg 0xFFFFFFFF) := by decide
theorem witness_UnknownWordsAreThoseAboveOpcodeFourteen :
    decode 0x1500000000 = .unknown 0x15 ∧ 0x15 ≤ (0x1500000000 : IWord).toNat / 2 ^ 32 ∧
    ¬ 0x15 ≤ (0x14FFFFFFFF : IWord).toNat / 2 ^ 32 := by decide
theorem witness_LoadFromBufferReadsItsIndexOrFaults :
    (0x3FF : Word).toNat < (at_ 0 [0]).seed.len ∧ (at_ 0 [0]).seed.len ≤ (0x400 : Word).toNat := by decide
theorem witness_LoadFromBufferIndirectMasksTheAccumulator :
    (((at_ 0xFFFFFFFF [0]).acc) &&& (0x3FF : Word)).toNat < (at_ 0xFFFFFFFF [0]).seed.len ∧
    (at_ 0x400 [0]).seed.len ≤ ((at_ 0x400 [0]).acc &&& (0x7FF : Word)).toNat := by decide
theorem witness_top_slot : (at_ 3 [10, 7]).ctx = 10 :: [7] ∧ (at_ 3 [10]).ctx = 10 :: [] := by decide
theorem witness_SubroutinePushesAZeroSlotOrOverflows :
    (at_ 0 [0]).cfg.ctxDepth ≠ some (at_ 0 [0]).ctx.length ∧
    ({ at_ 0 [0, 0, 0, 0] with cfg := { exA with ctxDepth := some 5 } }).cfg.ctxDepth ≠
      some ({ at_ 0 [0, 0, 0, 0] with cfg := { exA with ctxDepth := some 5 } }).ctx.length ∧
    ({ at_ 0 [0, 0, 0, 0, 0] with cfg := { exA with ctxDepth := some 5 } }).cfg.ctxDepth =
      some ({ at_ 0 [0, 0, 0, 0, 0] with cfg := { exA with ctxDepth := some 5 } }).ctx.length := by decide
theorem witness_ReturnPopsASlotOrHaltsTheRun :
    (at_ 3 [10, 7, 5]).ctx = 10 :: 7 :: [5] ∧ (at_ 3 [10]).ctx = [10] ∧
    (at_ 3 [10]).program? = some [0x1400000000] ∧ (at_ 3 [10]).phase = .running .low ∧
    ({ at_ 3 [10] with phase := .running .high } : State).phase = .running .high := by decide
theorem witness_InstructionsWriteOnlyIuRegisters :
    (∃ t, exec .addContext (at_ 1 [2]) = .next t) ∧ ∃ t, exec (.loadFromBuffer 0x400) (at_ 1 [2]) = .next t :=
  ⟨⟨_, rfl⟩, ⟨_, rfl⟩⟩
theorem witness_StepRunsTheDecodedInstruction :
    (running [0x0600000000] 1 2 [0]).phase = .running .low ∧
    (running [0x0600000000] 1 2 [0]).program? = some [0x0600000000] ∧
    (running [0x0600000000] 1 2 [0]).ctx ≠ [] ∧
    ([0x0600000000] : Program)[(running [0x0600000000] 1 2 [0]).pc]? = some 0x0600000000 ∧
    decode 0x0600000000 = .instr .addOne := by decide
theorem witness_UnknownOpcodeFaultsWhenReached :
    (running [0x1500000000] 1 2 [0]).phase = .running .low ∧
    (running [0x1500000000] 1 2 [0]).program? = some [0x1500000000] ∧
    (running [0x1500000000] 1 2 [0]).ctx ≠ [] ∧
    ([0x1500000000] : Program)[(running [0x1500000000] 1 2 [0]).pc]? = some 0x1500000000 ∧
    0x15 ≤ (0x1500000000 : IWord).toNat / 2 ^ 32 := by decide
theorem witness_RunEndsAtHaltOrEndOfSequence :
    (running [0x0600000000] 1 2 []).program? = some [0x0600000000] ∧
    (running [0x0600000000] 1 2 []).ctx = [] ∧ (running [0x0600000000] 1 2 []).phase = .running .low ∧
    ([0x0600000000] : Program).length ≤
      ({ running [0x0600000000] 1 2 [0] with phase := .running .high, pc := 1 } : State).pc := by decide
theorem witness_WordsAfterTheHaltNeverRun :
    (running [] 1 2 [0, 0]).sp ≠ 0 ∧
    (runWords [0x1400000000, 0x0600000000, 0x1400000000] (running [] 1 2 [0, 0])).sp = 0 := by decide
theorem witness_FaultsArePreciseAndLeaveTheStoreAlone :
    ∃ t, step (running [0x1500000000] 1 2 [0]) = .next t ∧
      t.responses = (running [0x1500000000] 1 2 [0]).responses ++ [.fault (.unknownOpcode 0 0 0x15)] :=
  ⟨_, rfl, by decide⟩
/-- A fill fault: the one-round attempt of a budget below the framing charge. -/
theorem witness_FaultsArePreciseAndLeaveTheStoreAlone_fill :
    ∃ t, step (attempting { exA with maxCost := 8 } 1) = .next t ∧
      t.responses = (attempting { exA with maxCost := 8 } 1).responses ++ [.fault (.budgetExhausted 0)] :=
  ⟨_, rfl, by decide⟩
theorem witness_NewLatchesTheConfigurationAndEmptiesTheStore :
    ({ at_ 1 [0] with phase := .idle, requests := [.new exA [1, 0, 2]] } : State).phase = .idle ∧
    ({ at_ 1 [0] with phase := .idle, requests := [.new exA [1, 0, 2]] } : State).requests =
      .new exA [1, 0, 2] :: [] := by decide
theorem witness_EvaluateIsAcceptedAndSelectsItsSlot :
    (asked exA 0x1FF).phase = .idle ∧ (asked exA 0x1FF).requests = .evaluate 0x1FF :: [] ∧
    (127 : Fin 128).val = (0x1FF : DWord).toNat % 128 ∧ (asked exA 0x1FF).slots.get 127 = none ∧
    ((asked exA 0).storeSlot [0x1400000000]).slots.get 0 ≠ none := by decide
theorem witness_FillSeedsTheGeneratorsFromTheSlotNumber :
    ({ State.reset with value := 0x1FF, phase := .fillStart } : State).phase = .fillStart ∧
    (0xFFFFFF800000007F : DWord).toNat =
      (2 ^ 32 - 1 - (0x1FF : DWord).toNat % 128) * 2 ^ 32 + (0x1FF : DWord).toNat % 128 := by decide
theorem witness_StreamIsNeverSeededWithZero : xgAdvance .pp (0, 0) = (0, 0) ∧ xgAdvance .ss (0, 0) = (0, 0) := by
  decide
theorem witness_LookupIsTheFirstEqualEntry :
    14 + 3 ≤ 17 ∧ lookup exA.order 14 3 2 = some 2 ∧ lookup exA.order 8 6 6 = none := by decide
theorem witness_AppendChargesAndTheBudgetIsInclusive :
    (asked tight 0).cost + 16 ≤ (asked tight 0).cfg.maxCost ∧
    (asked tight 0).cfg.maxCost < (asked tight 0).cost + 17 := by decide
theorem witness_FinalPhaseAppendsTheSelectedLoad (k : Fin 3) :
    ∃ t, emitFinal (choosing 14 3 k.val (by omega)) = .ok t := by
  apply of_goesOn; revert k; decide
theorem witness_InnerPhaseAppendsTheSelectedOperation (k : Fin 8) :
    ∃ t, innerEnd (choosing 0 8 k.val (by omega)) = .ok t := by
  apply of_goesOn; revert k; decide
theorem witness_SubroutinePhaseAppendsTheSelectedOperationAndReturn (k : Fin 6) :
    ∃ t, subroutineEnd (choosing 8 6 k.val (by omega)) = .ok t := by
  apply of_goesOn; revert k; decide
theorem witness_ProductionsAreBoundedInWordsAndDraws :
    (∃ t, emitProduction .inner 1 (beginFill (asked exA 0)) = .ok t) ∧
    ∃ t, emitProduction .subroutine 1 (beginFill (asked exA 0)) = .ok t :=
  ⟨of_goesOn (by decide), of_goesOn (by decide)⟩
theorem witness_CompletedAttempts :
    (1 ≤ (beginFill (asked exA 0)).rounds ∧ (beginFill (asked exA 0)).rounds ≤ 5) ∧
    (∃ t, emitAttempt (beginFill (asked exA 0)) = .ok t) ∧
    ∃ t, emitAttempt { beginFill (asked exA 0) with rounds := 1 } = .ok t :=
  ⟨by decide, of_goesOn (by decide), of_goesOn (by decide)⟩
theorem witness_StartingAccumulatorCannotBeSeen :
    Instr.isFinal (.loadFromBuffer 0x3FF) = true ∧ (running [] 1 2 [0]).phase ≠ .idle := by decide
theorem witness_TooSmallABudgetFailsEveryFill :
    (asked { exA with maxCost := 15 } 0).cfg.maxCost <
      14 + (asked { exA with maxCost := 15 } 0).cfg.costs.ret +
        min 5 (min 11 (asked { exA with maxCost := 15 } 0).cfg.costs.loadInput) ∧
    (asked { exA with maxCost := 15 } 0).cfg.orderTotal = true := by decide
/-- Each of the three lookups, at a draw that finds no entry. -/
theorem witness_TooSmallABudgetFailsEveryFill_lookups :
    (emitting unmapped 2 [.innerTail 2]).phase = .emitting ∧
    (emitting unmapped 2 [.innerTail 2]).acts = .innerTail 2 :: [] ∧
    (∀ r : Fin 8, lookup unmapped.order 0 8 r = none) ∧
    (emitting unmapped 2 [.subroutineTail 2]).acts = .subroutineTail 2 :: [] ∧
    (∀ r : Fin 6, lookup unmapped.order 8 6 r = none) ∧
    (emitting unmapped 2 [.inner 1, .innerTail 2]).acts = .inner 1 :: [.innerTail 2] ∧
    (emitting unmapped 1 [.subroutine 1]).acts = .subroutine 1 :: [] ∧
    (∀ r : Fin 3, lookup unmapped.order 14 3 r = none) := by decide
theorem witness_AttemptsStartFreshAndRetryWithOneRoundFewer :
    (attempting { exA with maxCost := 9 } 5).phase = .attemptStart ∧
    9 ≤ (attempting { exA with maxCost := 9 } 5).cfg.maxCost ∧
    (attempting { exA with maxCost := 9 } 5).cfg.reseedPerAttempt = false ∧
    (attempting { exA with reseedPerAttempt := true } 5).cfg.reseedPerAttempt = true ∧
    (0xFFFFFFFF00000000 : DWord).toNat =
      (2 ^ 32 - 1 - (attempting exA 5).value.toNat % 128) * 2 ^ 32 + (attempting exA 5).value.toNat % 128 ∧
    (attempting { exA with maxCost := 8 } 2).cfg.maxCost < 9 := by decide
/-- Attempts abandoned with one round and with two: at the head, at a load, at SUBROUTINE, at the close. -/
theorem witness_AttemptsStartFreshAndRetryWithOneRoundFewer_abandons :
    (∃ u, (attempting { exA with maxCost := 8 } 1).piece? = some (.abandoned u)) ∧
    (∃ u, (attempting { exA with maxCost := 8 } 2).piece? = some (.abandoned u)) ∧
    (∃ u, (emitting { exA with maxCost := 9 } 1 [.subroutine 1]).piece? = some (.abandoned u)) ∧
    (∃ u, (emitting { exA with maxCost := 9 } 2 [.subroutine 2]).piece? = some (.abandoned u)) ∧
    ∃ u, (emitting { exA with maxCost := 14 } 2 []).piece? = some (.abandoned u) :=
  ⟨of_abandons (by decide), of_abandons (by decide), of_abandons (by decide), of_abandons (by decide),
    of_abandons (by decide)⟩
/-- Under RESEED_PER_ATTEMPT the head of an attempt seeds the stream of slot 0 again (R198; the two values are
those of test_fill_of_slot_zero_is_seeded); without it the stream goes on where it stands. -/
theorem test_attempts_seed_again_on_request :
    (after (step { attempting { exA with reseedPerAttempt := true } 4 with s0 := 1, s1 := 2 })).map
      (fun t => (t.s0, t.s1)) = some (0x219FC13D6BC5B015, 0x4B18E50A83820B3F) ∧
    (after (step { attempting exA 4 with s0 := 1, s1 := 2 })).map (fun t => (t.s0, t.s1)) = some (1, 2) := by decide
theorem witness_SufficientConfigurationsFillEverySlot :
    ({ exA with maxCost := 26, progCap := some 77 } : Configuration).orderTotal = true ∧
    ({ exA with maxCost := 26, progCap := some 77 } : Configuration).budgetSuffices = true ∧
    capacityAtLeast 77 ({ exA with maxCost := 26, progCap := some 77 } : Configuration).progCap = true ∧
    ({ asked { exA with maxCost := 26, progCap := some 77 } 0 with phase := .fillStart } : State).phase =
      .fillStart := by decide
theorem witness_ActivationsPerformTheRecursiveProductions :
    ({ beginFill (asked exA 0) with phase := .emitting, acts := [.inner 1, .innerTail 2] } : State).acts =
      .inner (0 + 1) :: [.innerTail 2] ∧
    ({ beginFill (asked exA 0) with phase := .emitting, acts := [.subroutine 5] } : State).acts =
      .subroutine (4 + 1) :: [] := by decide
theorem witness_EveryFillEndsWithinBoundedSteps :
    ({ asked exA 0 with phase := .fillStart } : State).phase = .fillStart := by decide
theorem witness_StoringFillsTheSlotOrOverflows :
    (∀ c, ({ asked { exA with progCap := some 2 } 0 with phase := .storing, buf := [1, 2] } : State).cfg.progCap =
      some c → ({ asked { exA with progCap := some 2 } 0 with phase := .storing, buf := [1, 2] } : State).buf.length ≤
        c) ∧
    ({ asked { exA with progCap := some 1 } 0 with phase := .storing, buf := [1, 2] } : State).cfg.progCap =
      some 1 ∧ 1 < ([1, 2] : Program).length :=
  ⟨by rintro c h; cases h; decide, rfl, by decide⟩
theorem witness_RunsStartWithTheFoldedInputOrItsComplement :
    ({ asked exA 0 with phase := .runStart .low } : State).phase = .runStart .low ∧
    ({ asked exA 0 with phase := .runStart .high } : State).phase = .runStart .high ∧
    (asked exA 0).cfg.accInit = some 0 := by decide
theorem witness_HighRequestBitsAreUnused :
    (0xFFFFFF8000000081 : DWord).toNat % 2 ^ 39 = (0x81 : DWord).toNat % 2 ^ 39 ∧
    (asked exA 0xFFFFFF8000000081).phase = .idle ∧
    (asked exA 0xFFFFFF8000000081).requests = .evaluate 0xFFFFFF8000000081 :: [] := by decide
theorem witness_FeProgramsNeverFault :
    ((asked exA 0).storeSlot [0x02000003FF, 0x1400000000]).FeProgram ∧
    1024 ≤ ((asked exA 0).storeSlot [0x02000003FF, 0x1400000000]).seed.len ∧
    capacityAtLeast 5 ((asked exA 0).storeSlot [0x02000003FF, 0x1400000000]).cfg.ctxDepth = true :=
  ⟨⟨[.loadFromBuffer 0x3FF, .ret], by decide, by decide⟩, by decide, by decide⟩
theorem witness_an_evaluation_is_asked :
    (asked exA 0).phase = .idle ∧ (asked exA 0).requests = .evaluate 0 :: [] := by decide
theorem witness_AStepAnswersAtMostOnceAndThenIdles :
    (∃ t, step (running [] 1 2 [0]) = .next t) ∧
    ∃ t, step { running [] 1 2 [0] with phase := .running .high } = .next t := ⟨⟨_, rfl⟩, ⟨_, rfl⟩⟩

/-- A fresh core with one request pending meets the invariant. -/
theorem asked_inv (c : Configuration) (v : DWord) : (asked c v).Inv :=
  ⟨rfl, fun k p h => by simp [asked, State.reset] at h, rfl, rfl⟩

/-- A store with every slot empty is coherent. -/
theorem asked_coherent (c : Configuration) (v : DWord) : (asked c v).Coherent :=
  fun w p h => by simp [asked, State.reset] at h

theorem witness_EveryStepKeepsTheInvariant :
    (asked exA 0).Inv ∧ step (asked exA 0) = .next { asked exA 0 with requests := [], phase := .fillStart } :=
  ⟨asked_inv _ _, rfl⟩
theorem witness_FilledSlotsAreImmutable :
    State.Inv { State.reset with requests := [.new exA [1]] } ∧
    ∃ t, step { State.reset with requests := [.new exA [1]] } = .next t :=
  ⟨⟨rfl, fun k p h => by simp [State.reset] at h, rfl, rfl⟩, ⟨_, rfl⟩⟩
/-- A core of the tight budget answers a request that selects slot 5 with the input 0, and its complement, as
the one-round program LOAD_INPUT, RETURN gives them. -/
theorem tight_answers : answers 37 (asked tight 5) = some [.ok 0xFFFFFFFF00000000] := by decide

theorem witness_EvaluateIsAFunctionOfValueAndConfiguration :
    (asked tight 5).Inv ∧ (asked tight 5).Coherent ∧ (asked tight 5).phase = .idle ∧
    (asked tight 5).requests = .evaluate 5 :: [] ∧
    ∃ t, Reaches (asked tight 5) t ∧ t.responses = (asked tight 5).responses ++ [.ok 0xFFFFFFFF00000000] :=
  ⟨asked_inv _ _, asked_coherent _ _, rfl, rfl, of_answers tight_answers⟩
theorem witness_SufficientConfigurationsAlwaysAnswerAResult :
    (asked exA 0).Coherent ∧ (asked exA 0).cfg.wellFormed = true ∧ 1024 ≤ (asked exA 0).seed.len :=
  ⟨asked_coherent _ _, by decide, by decide⟩
theorem witness_CanonicalSeedBlocksThatReadAlikeAreEqual :
    (SeedBlock.ofWords [1, 0, 2]).wf = true ∧ ({ len := 3, cells := [(0, 1), (2, 2)] } : SeedBlock).wf = true ∧
    ∀ a, (SeedBlock.ofWords [1, 0, 2]).read a = ({ len := 3, cells := [(0, 1), (2, 2)] } : SeedBlock).read a :=
  ⟨by decide, by decide, fun _ => rfl⟩

end Sys2Proof.Tests
end

section
/-! What an instruction writes, and what the pieces of a transaction leave of the configuration and the
memories. -/

namespace Sys2Proof.Machine

/-! ## What an instruction writes -/

/-- `r` answers, if it answers a next state, with IU's registers written or with a fault taken. -/
def AnswersIu (s : State) (r : Result) : Prop :=
  ∀ t, r = .next t →
    (∃ acc ctx pc, t = { s with acc := acc, ctx := ctx, pc := pc }) ∨ ∃ f, t = s.takeFault f

theorem AnswersIu.write (s : State) (acc : Word) (ctx : List Word) (pc : Nat) :
    AnswersIu s (.next { s with acc := acc, ctx := ctx, pc := pc }) := by
  rintro t ⟨⟩
  exact .inl ⟨acc, ctx, pc, rfl⟩

theorem AnswersIu.withAcc (s : State) (v : Word) : AnswersIu s (.next (s.withAcc v)) :=
  .write s v s.ctx (s.pc + 1)

theorem AnswersIu.takeFault (s : State) (f : FaultRecord) : AnswersIu s (.next (s.takeFault f)) := by
  rintro t ⟨⟩
  exact .inr ⟨f, rfl⟩

theorem AnswersIu.stop (s : State) (f : Fault) : AnswersIu s (.fault f) := by
  rintro t ⟨⟩

theorem loadWord_answersIu (a : Word) (s : State) : AnswersIu s (loadWord a s) := by
  cases h : s.seed.read a.toNat with
  | some w => exact loadWord_some h ▸ .withAcc s w
  | none => exact loadWord_none h ▸ .takeFault s _

theorem combineTop_answersIu (f : Word → Word → Word) (s : State) : AnswersIu s (combineTop f s) := by
  unfold combineTop
  split
  · exact .stop s _
  · exact .withAcc s _

theorem execSaveToContext_answersIu (s : State) : AnswersIu s (execSaveToContext s) := by
  unfold execSaveToContext
  split
  · exact .stop s _
  · exact .write s s.acc (s.acc :: s.ctx.tail) (s.pc + 1)

theorem execSubroutine_answersIu (s : State) : AnswersIu s (execSubroutine s) := by
  unfold execSubroutine
  split
  · exact .takeFault s _
  · exact .write s s.acc (0 :: s.ctx) (s.pc + 1)

theorem execRet_answersIu (s : State) : AnswersIu s (execRet s) := by
  unfold execRet
  split
  · exact .stop s _
  · exact .write s s.acc s.ctx.tail _

/-- Unlike `exec_cases`, for every state: an instruction that finds the context stack empty writes its
result, takes a fault or stops the model. -/
theorem exec_answersIu (i : Instr) (s : State) : AnswersIu s (exec i s) := by
  cases i with
  | loadArg imm => exact .withAcc s _
  | loadInput => exact .withAcc s _
  | loadFromBuffer imm => exact loadWord_answersIu _ s
  | loadFromBufferIndirect imm => exact loadWord_answersIu _ s
  | addArg imm => exact .withAcc s _
  | subtractArg imm => exact .withAcc s _
  | addOne => exact .withAcc s _
  | subtractOne => exact .withAcc s _
  | bitwiseNot => exact .withAcc s _
  | bitwiseXor imm => exact .withAcc s _
  | negate => exact .withAcc s _
  | shuffle imm => exact .withAcc s _
  | saveToContext => exact execSaveToContext_answersIu s
  | addContext => exact combineTop_answersIu _ s
  | subtractContext => exact combineTop_answersIu _ s
  | subtractFromContext => exact combineTop_answersIu (fun acc top => top - acc) s
  | multiplyContext => exact combineTop_answersIu _ s
  | shlContext => exact combineTop_answersIu (fun acc top => acc <<< shiftCount top) s
  | shrContext => exact combineTop_answersIu (fun acc top => acc >>> shiftCount top) s
  | subroutine => exact execSubroutine_answersIu s
  | ret => exact execRet_answersIu s

theorem execWord_answersIu (w : IWord) (s : State) : AnswersIu s (execWord w s) := by
  unfold execWord
  split
  · exact exec_answersIu _ s
  · exact .takeFault s _

/-- Settles O16: each instruction's answer is one of the shared shapes of `AnswersIu`. -/
theorem instructionsWriteOnlyIuRegisters : Obligations.InstructionsWriteOnlyIuRegisters :=
  fun i s t h => exec_answersIu i s t h

/-! ## Reset -/

theorem reset_get (k : Fin 128) : State.reset.slots.get k = none := new_get _ _ k

/-- Settles O23: an idle core with no request pending accepts nothing. -/
theorem resetIsIdleWithEverySlotEmpty : Obligations.ResetIsIdleWithEverySlotEmpty :=
  ⟨rfl, reset_get, rfl⟩

/-- Settles O51. -/
theorem invariantHoldsAtReset : Obligations.InvariantHoldsAtReset where
  seedWf := reset_seed_wf
  slotFits k p h := by simp [reset_get] at h
  phaseOk := ⟨rfl, rfl⟩

/-! ## What a transaction leaves of the configuration and the memories -/

/-- From `s` to `t` the configuration, the seed block, the program store and the request register stay. -/
structure KeepsMemories (s t : State) : Prop where
  cfg : t.cfg = s.cfg
  seed : t.seed = s.seed
  slots : t.slots = s.slots
  value : t.value = s.value

namespace KeepsMemories

variable {s t u : State}

theorem refl (s : State) : KeepsMemories s s := ⟨rfl, rfl, rfl, rfl⟩

theorem trans (h : KeepsMemories s t) (k : KeepsMemories t u) : KeepsMemories s u where
  cfg := k.cfg.trans h.cfg
  seed := k.seed.trans h.seed
  slots := k.slots.trans h.slots
  value := k.value.trans h.value

theorem slot (h : KeepsMemories s t) : t.slot = s.slot := by simp only [State.slot, h.value]

theorem program (h : KeepsMemories s t) : t.program? = s.program? := by
  simp only [State.program?, h.slots, h.slot]

theorem takeFault (s : State) (f : FaultRecord) : KeepsMemories s (s.takeFault f) := ⟨rfl, rfl, rfl, rfl⟩

theorem of_answersIu {r : Result} (h : AnswersIu s r) (e : r = .next t) : KeepsMemories s t := by
  obtain ⟨acc, ctx, pc, rfl⟩ | ⟨f, rfl⟩ := h t e
  · exact ⟨rfl, rfl, rfl, rfl⟩
  · exact takeFault s f

end KeepsMemories

theorem beginFill_keeps (s : State) : KeepsMemories s (beginFill s) := ⟨rfl, rfl, rfl, rfl⟩

theorem startRun_keeps (half : RunHalf) (s : State) : KeepsMemories s (startRun half s) := by
  obtain ⟨acc, freeCount, e⟩ := startRun_form half s
  exact e ▸ ⟨rfl, rfl, rfl, rfl⟩

theorem finishRun_keeps (half : RunHalf) (s : State) : KeepsMemories s (finishRun half s) := by
  cases half <;> exact ⟨rfl, rfl, rfl, rfl⟩

/-- What a step of a run can do (R163 to R165): the run ends, at the halt or at the end of the sequence, or
the word at `pc` is performed with a live context slot. -/
theorem runStep_cases {half : RunHalf} {s t : State} (h : runStep half s = .next t) :
    ∃ p, s.program? = some p ∧
      (t = finishRun half s ∨ ∃ w, s.ctx ≠ [] ∧ p[s.pc]? = some w ∧ execWord w s = .next t) := by
  unfold runStep at h
  split at h
  · cases h
  · rename_i p hp
    refine ⟨p, hp, ?_⟩
    split at h
    · cases h; exact .inl rfl
    · rename_i hsp
      split at h
      · cases h; exact .inl rfl
      · rename_i w hw
        exact .inr ⟨w, fun hc => hsp (by simp [State.sp, hc]), hw, h⟩

theorem runStep_keeps {half : RunHalf} {s t : State} (h : runStep half s = .next t) : KeepsMemories s t := by
  obtain ⟨p, -, rfl | ⟨w, -, -, e⟩⟩ := runStep_cases h
  · exact finishRun_keeps half s
  · exact .of_answersIu (execWord_answersIu w s) e

/-! ## What a piece of an attempt leaves unchanged -/

/-- The state a piece of an attempt ends in, however it ends. -/
def Emit.state : Emit → State
  | .ok s => s
  | .abandoned s => s
  | .lookupFailed _ _ s => s

/-- From `s` to `t` nothing has moved but the generators, FE's buffer, cost and activations, the count of
draws and the phase: FE inside one attempt (R29, R196). -/
def AttemptFrame (s t : State) : Prop :=
  t = { s with
    sm := t.sm, s0 := t.s0, s1 := t.s1, buf := t.buf, cost := t.cost, acts := t.acts, draws := t.draws,
    phase := t.phase }

namespace AttemptFrame

variable {s t u : State}

theorem trans (h : AttemptFrame s t) (k : AttemptFrame t u) : AttemptFrame s u :=
  Eq.trans k (by rw [h])

theorem rounds (h : AttemptFrame s t) : t.rounds = s.rounds := by rw [h]

theorem keeps (h : AttemptFrame s t) : KeepsMemories s t := by
  constructor <;> rw [h]

end AttemptFrame

theorem Emitted.frame {s t : State} {d : Nat} {is : List Instr} (h : Emitted s d is t) : AttemptFrame s t := by
  subst h; rfl

theorem StoppedAt.frame {s t : State} (h : StoppedAt s t) : AttemptFrame s t := by
  obtain ⟨d, buf, cost, rfl⟩ := h; rfl

theorem Emit.Meets.frame {s : State} {W : Nat → List Instr → Prop} {e : Emit} (h : e.Meets s W) :
    AttemptFrame s e.state := by
  cases e with
  | ok t => obtain ⟨d, is, ht, -⟩ := h; exact ht.frame
  | abandoned t => exact h.1.frame
  | lookupFailed base residue t => exact h.1.frame

/-- Two pieces, the second begun where the first ends. -/
theorem Emit.frame_andThen {s : State} {e : Emit} {k : State → Emit} (h : AttemptFrame s e.state)
    (hk : ∀ t, AttemptFrame t (k t).state) : AttemptFrame s (e.andThen k).state := by
  cases e with
  | ok t => exact h.trans (hk t)
  | abandoned t => exact h
  | lookupFailed base residue t => exact h

theorem charge_frame (c : Nat) (s : State) : AttemptFrame s (charge c s).state := by
  unfold charge
  split <;> rfl

theorem append_frame (i : Instr) (s : State) : AttemptFrame s (append i s).state := (append_meets i s).frame

theorem openAttempt_frame (s : State) : AttemptFrame s (openAttempt s).state := by
  refine AttemptFrame.trans ?_ (charge_frame 9 _)
  split <;> rfl

theorem startAttempt_frame (s : State) : AttemptFrame s (startAttempt s).state :=
  Emit.frame_andThen (openAttempt_frame s) fun _ => rfl

theorem closeAttempt_frame (s : State) : AttemptFrame s (closeAttempt s).state :=
  Emit.frame_andThen (Emit.frame_andThen (append_frame .ret s) (charge_frame 5)) fun _ => rfl

theorem abandonAttempt_keeps (s : State) : KeepsMemories s (abandonAttempt s) := by
  unfold abandonAttempt
  split
  · exact .takeFault s _
  · exact ⟨rfl, rfl, rfl, rfl⟩

theorem settle_keeps (e : Emit) : KeepsMemories e.state (settle e) := by
  cases e with
  | ok t => exact .refl t
  | abandoned t => exact abandonAttempt_keeps t
  | lookupFailed base residue t => exact .takeFault t _

end Sys2Proof.Machine
end

section
/-! What one step can do, and the invariant of the core. -/

namespace Sys2Proof.Machine

/-! ## What an activation can do -/

/-- What stands on the activation stack after the activation `a` was performed above `rest`: it ended, or it
called a production at the step below its own and waits for it (R189, R190, R194). -/
inductive Activation.Leaves (a : Activation) (rest : List Activation) : List Activation → Prop where
  | ended : Leaves a rest rest
  | called (d : Word) (n : Nat) (waiting : Activation) (hw : waiting.leastStep = 2)
      (hs : waiting.step = n + 2) (ha : a.step = n + 2) :
      Leaves a rest (coinCallee d (n + 1) :: waiting :: rest)

/-- A piece begun in `s` makes draws and appends, keeps within a budget it found kept, and leaves activations
that satisfy `A`; or it stops as in `Emit.Meets`. -/
def Emit.Moves (s : State) (A : List Activation → Prop) : Emit → Prop
  | .ok t => ∃ d is acts, Emitted { s with acts := acts } d is t ∧ A acts ∧
      (s.cost ≤ s.cfg.maxCost → t.cost ≤ s.cfg.maxCost)
  | .abandoned t => StoppedAt s t ∧ s.cfg.maxCost < t.cost
  | .lookupFailed base residue t => StoppedAt s t ∧ MissingResidue s.cfg.order base residue

theorem Emit.Meets.moves {s : State} {W : Nat → List Instr → Prop} {A : List Activation → Prop} {e : Emit}
    (h : e.Meets s W) (hA : A s.acts) : e.Moves s A := by
  cases e with
  | ok t => obtain ⟨d, is, ht, hc, -⟩ := h; exact ⟨d, is, s.acts, ht, hA, fun _ => hc⟩
  | abandoned t => exact h
  | lookupFailed base residue t => exact h

theorem coinRecurse_moves (n : Nat) (waiting : Activation) (s : State) :
    (coinRecurse n waiting s).Moves s fun acts => ∃ d, acts = coinCallee d n :: waiting :: s.acts :=
  ⟨1, [], _, emitted_draw { s with acts := _ }, ⟨s.draw.1, rfl⟩, id⟩

/-- An append, then a call. -/
theorem append_coinRecurse_moves (i : Instr) (n : Nat) (waiting : Activation) (s : State) :
    ((append i s).andThen (coinRecurse n waiting)).Moves s
      fun acts => ∃ d, acts = coinCallee d n :: waiting :: s.acts := by
  have h := append_meets i s
  cases e : append i s with
  | ok t =>
    rw [e] at h
    obtain ⟨d, is, rfl, hc, -⟩ := h
    exact ⟨d + 1, is ++ [], _, .trans rfl (emitted_draw _), ⟨_, rfl⟩, fun _ => hc⟩
  | abandoned t => rw [e] at h; exact h
  | lookupFailed base residue t => rw [e] at h; exact h

theorem Emit.Moves.mono {s : State} {A B : List Activation → Prop} {e : Emit} (h : e.Moves s A)
    (k : ∀ acts, A acts → B acts) : e.Moves s B := by
  cases e with
  | ok t => obtain ⟨d, is, acts, ht, ha, hc⟩ := h; exact ⟨d, is, acts, ht, k _ ha, hc⟩
  | abandoned t => exact h
  | lookupFailed base residue t => exact h

/-- A call is what `Activation.Leaves` says of it. -/
theorem Emit.Moves.leaves {s : State} {a waiting : Activation} {n : Nat} {e : Emit}
    (h : e.Moves s fun acts => ∃ d, acts = coinCallee d (n + 1) :: waiting :: s.acts)
    (hw : waiting.leastStep = 2) (hs : waiting.step = n + 2) (ha : a.step = n + 2) :
    e.Moves s (a.Leaves s.acts) := by
  refine h.mono ?_
  rintro _ ⟨d, rfl⟩
  exact .called d n waiting hw hs ha

theorem perform_moves {a : Activation} {s : State} {e : Emit} (h : perform a s = some e) :
    e.Moves s (a.Leaves s.acts) := by
  unfold perform at h
  split at h <;> cases h
  · exact (emitFinal_meets s).moves .ended
  · exact (coinRecurse_moves _ _ s).leaves rfl rfl rfl
  · exact (innerEnd_meets s).moves .ended
  · exact (emitFinal_meets s).moves .ended
  · exact (append_coinRecurse_moves _ _ _ s).leaves rfl rfl rfl
  · exact (append_coinRecurse_moves _ _ _ s).leaves rfl rfl rfl
  · exact (subroutineEnd_meets s).moves .ended

theorem Emit.Moves.frame {s : State} {A : List Activation → Prop} {e : Emit} (h : e.Moves s A) :
    AttemptFrame s e.state := by
  cases e with
  | ok t => obtain ⟨d, is, acts, rfl, -⟩ := h; rfl
  | abandoned t => exact h.1.frame
  | lookupFailed base residue t => exact h.1.frame

/-! ## What a step can do -/

/-- A step inside an attempt performs one piece of it: the close, or the newest activation. -/
theorem emitStep_cases {s t : State} (h : emitStep s = .next t) :
    (s.acts = [] ∧ t = settle (closeAttempt s)) ∨
      ∃ a rest e, s.acts = a :: rest ∧ e.Moves { s with acts := rest } (a.Leaves rest) ∧ t = settle e := by
  unfold emitStep at h
  split at h
  · rename_i ha
    cases h
    exact .inl ⟨ha, rfl⟩
  · rename_i a rest ha
    split at h
    · rename_i e he
      cases h
      exact .inr ⟨a, rest, e, ha, perform_moves he, rfl⟩
    · cases h

theorem emitStep_keeps {s t : State} (h : emitStep s = .next t) : KeepsMemories s t := by
  obtain ⟨-, rfl⟩ | ⟨a, rest, e, -, he, rfl⟩ := emitStep_cases h
  · exact (closeAttempt_frame s).keeps.trans (settle_keeps _)
  · have hk : KeepsMemories s { s with acts := rest } := ⟨rfl, rfl, rfl, rfl⟩
    exact (hk.trans he.frame.keeps).trans (settle_keeps e)

/-- Outside the acceptance of a request and the storing of a program, no step touches the configuration, the
memories or the request register. -/
theorem step_keeps {s t : State} (h : step s = .next t) (hi : s.phase ≠ .idle) (hs : s.phase ≠ .storing) :
    KeepsMemories s t := by
  unfold step at h
  cases hp : s.phase with
  | idle => exact absurd hp hi
  | storing => exact absurd hp hs
  | fillStart => rw [hp] at h; cases h; exact beginFill_keeps s
  | attemptStart => rw [hp] at h; cases h; exact (startAttempt_frame s).keeps.trans (settle_keeps _)
  | emitting => rw [hp] at h; exact emitStep_keeps h
  | runStart half => rw [hp] at h; cases h; exact startRun_keeps half s
  | running half => rw [hp] at h; exact runStep_keeps h

/-- What an idle core does with its requests (R220, R221 steps 1 and 2). -/
theorem acceptRequest_cases {s t : State} (h : acceptRequest s = t) :
    (s.requests = [] ∧ t = s) ∨
    (∃ c block rest, s.requests = .new c block :: rest ∧ t = { s with requests := rest }.construct c block) ∨
    ∃ v rest, s.requests = .evaluate v :: rest ∧
      (((s.slots.get (slotOf v)).isSome = true ∧
          t = { s with requests := rest, value := v, phase := .runStart .low }) ∨
        (s.slots.get (slotOf v) = none ∧
          t = { s with requests := rest, value := v, phase := .fillStart })) := by
  unfold acceptRequest at h
  split at h
  · rename_i hr; exact .inl ⟨hr, h.symm⟩
  · rename_i c block rest hr; exact .inr (.inl ⟨c, block, rest, hr, h.symm⟩)
  · rename_i v rest hr
    refine .inr (.inr ⟨v, rest, hr, ?_⟩)
    by_cases hv : (s.slots.get (slotOf v)).isSome = true
    · exact .inl ⟨hv, h.symm.trans (if_pos hv)⟩
    · exact .inr ⟨Option.not_isSome_iff_eq_none.mp hv, h.symm.trans (if_neg hv)⟩

/-- The storing of a finished program (R223, R245): it fits and fills its slot, or the fill ends in a fault. -/
theorem storeProgram_cases {s t : State} (h : storeProgram s = t) :
    (fits s.cfg.progCap s.buf.length = true ∧
      t = { (s.storeSlot s.buf).endFill with phase := .runStart .low }) ∨
    t = s.takeFault (.slotOverflow s.slot s.buf.length) := by
  unfold storeProgram at h
  split at h
  · rename_i hf; exact .inl ⟨hf, h.symm⟩
  · exact .inr h.symm

theorem step_idle {s t : State} (hp : s.phase = .idle) (h : step s = .next t) : acceptRequest s = t := by
  rw [step, hp] at h; cases h; rfl

theorem step_storing {s t : State} (hp : s.phase = .storing) (h : step s = .next t) : storeProgram s = t := by
  rw [step, hp] at h; cases h; rfl

/-- Settles O55: the accepted `NEW` is the one step of an idle core that writes the configuration, and the
storing of a program writes the program store only. -/
theorem onlyNewChangesTheConfiguration : Obligations.OnlyNewChangesTheConfiguration := by
  intro s t h
  by_cases hi : s.phase = .idle
  · obtain ⟨-, rfl⟩ | ⟨c, block, rest, hr, rfl⟩ | ⟨v, rest, -, ⟨-, rfl⟩ | ⟨-, rfl⟩⟩ :=
      acceptRequest_cases (step_idle hi h)
    · exact .inl ⟨rfl, rfl⟩
    · exact .inr ⟨hi, c, block, rest, hr, rfl⟩
    · exact .inl ⟨rfl, rfl⟩
    · exact .inl ⟨rfl, rfl⟩
  · by_cases hs : s.phase = .storing
    · obtain ⟨-, rfl⟩ | rfl := storeProgram_cases (step_storing hs h)
      · exact .inl ⟨rfl, rfl⟩
      · exact .inl ⟨rfl, rfl⟩
    · have hk := step_keeps h hi hs
      exact .inl ⟨hk.cfg, hk.seed⟩

/-- A program in an empty slot leaves every filled slot as it was. -/
theorem storeSlot_get_of_filled {s : State} {p q : Program} {k : Fin 128} (he : s.slots.get s.slot = none)
    (hk : s.slots.get k = some q) : (s.storeSlot p).slots.get k = some q := by
  rw [storeSlot_get, if_neg, hk]
  rintro rfl
  rw [he] at hk
  cases hk

theorem State.Inv.slot_empty_of_storing {s : State} (hinv : s.Inv) (hs : s.phase = .storing) :
    s.slots.get s.slot = none := by
  have h := hinv.phaseOk
  rw [State.PhaseOk, hs] at h
  exact h.1

theorem store_immutable_of_eq {s t : State} (e : t.slots = s.slots) :
    (∀ k p, s.slots.get k = some p → t.slots.get k = some p) ∧
      (t.slots ≠ s.slots → s.phase = .storing ∧ s.slots.get s.slot = none) :=
  ⟨fun _ _ hk => e ▸ hk, fun hne => absurd e hne⟩

/-- Settles O54: the storing finds its slot empty, by the invariant. -/
theorem filledSlotsAreImmutable : Obligations.FilledSlotsAreImmutable := by
  intro s t hinv h
  by_cases hi : s.phase = .idle
  · obtain ⟨-, rfl⟩ | ⟨c, block, rest, hr, -⟩ | ⟨v, rest, -, ⟨-, rfl⟩ | ⟨-, rfl⟩⟩ :=
      acceptRequest_cases (step_idle hi h)
    · exact .inl (store_immutable_of_eq rfl)
    · exact .inr ⟨hi, c, block, rest, hr⟩
    · exact .inl (store_immutable_of_eq rfl)
    · exact .inl (store_immutable_of_eq rfl)
  · by_cases hs : s.phase = .storing
    · have hempty := hinv.slot_empty_of_storing hs
      obtain ⟨-, rfl⟩ | rfl := storeProgram_cases (step_storing hs h)
      · exact .inl ⟨fun k p hk => storeSlot_get_of_filled hempty hk, fun _ => ⟨hs, hempty⟩⟩
      · exact .inl (store_immutable_of_eq rfl)
    · exact .inl (store_immutable_of_eq (step_keeps h hi hs).slots)

end Sys2Proof.Machine
end

section
/-! The invariant of the core: each phase's step leads to a legal point of the transaction. -/

namespace Sys2Proof.Machine

/-! ## The cost of the words FE writes -/

/-- The decoder reads back what FE writes (R71, R72). -/
theorem decode_encode (i : Instr) : decode (encode i) = .instr i := by
  unfold decode
  rw [opField_encode, immField_encode]
  cases i <;> rfl

@[simp] theorem wordCost_encode (c : OpenCosts) (i : Instr) : wordCost c (encode i) = opCost c i := by
  rw [wordCost, decode_encode]

/-- What a piece charged is what its words cost (R183, R200). -/
theorem programCost_append_encode (c : OpenCosts) (p : Program) (is : List Instr) :
    programCost c (p ++ is.map encode) = programCost c p + instrCost c is := by
  simp [programCost, instrCost, Function.comp_def]

/-! ## The activations of the grammar -/

/-- An activation that waits stands one step above the one it waits for. -/
theorem waitingChain_cons (rounds k : Nat) (b : Activation) (rest : List Activation) :
    waitingChain rounds k (b :: rest) = true ↔
      b.leastStep = 2 ∧ b.step = k + 1 ∧ waitingChain rounds b.step rest = true := by
  cases b <;> simp +contextual [waitingChain, Activation.leastStep, Activation.step]

theorem activationsOk_cons (rounds : Nat) (a : Activation) (rest : List Activation) :
    activationsOk rounds (a :: rest) = true ↔
      a.leastStep ≤ a.step ∧ waitingChain rounds a.step rest = true := by
  simp [activationsOk]

theorem coinCallee_step (d : Word) (n : Nat) : (coinCallee d n).step = n := by
  unfold coinCallee
  split <;> rfl

theorem coinCallee_leastStep (d : Word) (n : Nat) : (coinCallee d n).leastStep = 1 := by
  unfold coinCallee
  split <;> rfl

theorem Activation.one_le_leastStep (a : Activation) : 1 ≤ a.leastStep := by
  cases a <;> simp [leastStep]

/-- Performing the newest activation leaves activations of the grammar (R194, R204): when it ends, the one
that waited for it is legal, and when it calls, it waits one step above its callee. -/
theorem Activation.Leaves.activationsOk {rounds : Nat} {a : Activation} {rest acts : List Activation}
    (h : a.Leaves rest acts) (ok : activationsOk rounds (a :: rest) = true) :
    activationsOk rounds acts = true := by
  obtain ⟨hstep, hchain⟩ := (activationsOk_cons rounds a rest).mp ok
  cases h with
  | ended =>
    cases rest with
    | nil => rfl
    | cons b below =>
      obtain ⟨hleast, hb, hbelow⟩ := (waitingChain_cons rounds a.step b below).mp hchain
      have := a.one_le_leastStep
      exact (activationsOk_cons rounds b below).mpr ⟨by omega, hbelow⟩
  | called d n waiting hw hs ha =>
    refine (activationsOk_cons rounds _ _).mpr ⟨?_, ?_⟩
    · rw [coinCallee_leastStep, coinCallee_step]; omega
    · rw [waitingChain_cons, coinCallee_step, hs]
      exact ⟨hw, rfl, ha ▸ hchain⟩

/-! ## The legal points of a transaction, one equivalence per phase -/

namespace State

variable {s : State}

theorem phaseOk_idle (h : s.phase = .idle) : s.PhaseOk ↔ s.buf = [] ∧ s.acts = [] := by
  rw [PhaseOk, h]

theorem phaseOk_fillStart (h : s.phase = .fillStart) :
    s.PhaseOk ↔ s.program? = none ∧ s.buf = [] ∧ s.acts = [] := by
  rw [PhaseOk, h]

theorem phaseOk_attemptStart (h : s.phase = .attemptStart) :
    s.PhaseOk ↔ s.program? = none ∧ 1 ≤ s.rounds ∧ s.rounds ≤ 5 ∧ s.acts = [] := by
  rw [PhaseOk, h]

theorem phaseOk_emitting (h : s.phase = .emitting) :
    s.PhaseOk ↔ s.program? = none ∧ 1 ≤ s.rounds ∧ s.rounds ≤ 5 ∧ activationsOk s.rounds s.acts = true ∧
      s.cost = 9 + programCost s.cfg.costs s.buf ∧ s.cost ≤ s.cfg.maxCost := by
  rw [PhaseOk, h]

theorem phaseOk_storing (h : s.phase = .storing) :
    s.PhaseOk ↔ s.program? = none ∧ s.acts = [] ∧
      s.cost = 14 + programCost s.cfg.costs s.buf ∧ s.cost ≤ s.cfg.maxCost := by
  rw [PhaseOk, h]

theorem phaseOk_runStart {half : RunHalf} (h : s.phase = .runStart half) :
    s.PhaseOk ↔ s.program?.isSome = true ∧ s.buf = [] ∧ s.acts = [] := by
  rw [PhaseOk, h]

theorem phaseOk_running {half : RunHalf} (h : s.phase = .running half) :
    s.PhaseOk ↔ (∃ p, s.program? = some p ∧ s.pc ≤ p.length) ∧ s.buf = [] ∧ s.acts = [] ∧
      ∀ d, s.cfg.ctxDepth = some d → 1 ≤ d → s.sp ≤ d := by
  rw [PhaseOk, h]

theorem takeFault_phaseOk (s : State) (f : FaultRecord) : (s.takeFault f).PhaseOk :=
  (phaseOk_idle rfl).mpr ⟨rfl, rfl⟩

end State

/-! ## The step of each phase -/

theorem acceptRequest_phaseOk {s : State} (hp : s.phase = .idle) (h : s.PhaseOk) :
    (acceptRequest s).PhaseOk := by
  have hidle := (State.phaseOk_idle hp).mp h
  obtain ⟨-, e⟩ | ⟨c, block, rest, -, e⟩ | ⟨v, rest, -, ⟨hv, e⟩ | ⟨hv, e⟩⟩ :=
    acceptRequest_cases (s := s) rfl
  · rw [e]; exact h
  · rw [e]; exact (State.phaseOk_idle rfl).mpr ⟨rfl, rfl⟩
  · rw [e]; exact (State.phaseOk_runStart rfl).mpr ⟨hv, hidle⟩
  · rw [e]; exact (State.phaseOk_fillStart rfl).mpr ⟨hv, hidle⟩

theorem beginFill_phaseOk {s : State} (hp : s.phase = .fillStart) (h : s.PhaseOk) : (beginFill s).PhaseOk := by
  obtain ⟨hempty, -, hacts⟩ := (State.phaseOk_fillStart hp).mp h
  exact (State.phaseOk_attemptStart rfl).mpr ⟨hempty, (by decide : 1 ≤ 5), le_refl 5, hacts⟩

/-- An abandoned attempt of a legal number of rounds leaves the head of a shorter one, or the core idle
(R196, R201). -/
theorem abandonAttempt_phaseOk {s : State} (hempty : s.program? = none) (hr : s.rounds ≤ 5) :
    (abandonAttempt s).PhaseOk := by
  unfold abandonAttempt
  split
  · exact s.takeFault_phaseOk _
  · exact (State.phaseOk_attemptStart rfl).mpr ⟨hempty, by dsimp only; omega, by dsimp only; omega, rfl⟩

/-- After a piece of an attempt that began in `s` only the attempt that goes on has to be looked at. -/
theorem settle_phaseOk {s : State} {e : Emit} (hf : AttemptFrame s e.state) (hempty : s.program? = none)
    (hr : s.rounds ≤ 5) (hok : ∀ t, e = .ok t → t.PhaseOk) : (settle e).PhaseOk := by
  cases e with
  | ok t => exact hok t rfl
  | abandoned t => exact abandonAttempt_phaseOk (hf.keeps.program.trans hempty) (hf.rounds.trans_le hr)
  | lookupFailed base residue t => exact t.takeFault_phaseOk _

theorem Emit.andThen_eq_ok {e : Emit} {k : State → Emit} {u : State} (h : e.andThen k = .ok u) :
    ∃ t, e = .ok t ∧ k t = .ok u := by
  cases e with
  | ok t => exact ⟨t, rfl, h⟩
  | abandoned t => cases h
  | lookupFailed base residue t => cases h

theorem charge_eq_ok {c : Nat} {s t : State} (h : charge c s = .ok t) :
    t = { s with cost := s.cost + c } ∧ t.cost ≤ s.cfg.maxCost := by
  unfold charge at h
  split at h
  · cases h
  · rename_i hc; cases h; exact ⟨rfl, Nat.le_of_not_lt hc⟩

theorem append_eq_ok {i : Instr} {s t : State} (h : append i s = .ok t) :
    t = { s with buf := s.buf ++ [encode i], cost := s.cost + opCost s.cfg.costs i } := (charge_eq_ok h).1

/-- The head of an attempt that the budget admits (R196, D21). -/
theorem openAttempt_eq_ok {s t : State} (h : openAttempt s = .ok t) :
    t.phase = .emitting ∧ t.buf = [] ∧ t.cost = 9 ∧ t.cost ≤ t.cfg.maxCost := by
  dsimp only [openAttempt] at h
  split at h <;>
  · obtain ⟨rfl, hc⟩ := charge_eq_ok h
    exact ⟨rfl, rfl, rfl, hc⟩

theorem startAttempt_phaseOk {s : State} (hp : s.phase = .attemptStart) (h : s.PhaseOk) :
    (settle (startAttempt s)).PhaseOk := by
  obtain ⟨hempty, hr, hr5, -⟩ := (State.phaseOk_attemptStart hp).mp h
  refine settle_phaseOk (startAttempt_frame s) hempty hr5 fun u hu => ?_
  obtain ⟨t, ht, ⟨⟩⟩ := Emit.andThen_eq_ok hu
  have hf : AttemptFrame s t := by simpa only [ht, Emit.state] using openAttempt_frame s
  obtain ⟨hphase, hbuf, hcost, hmax⟩ := openAttempt_eq_ok ht
  refine (State.phaseOk_emitting (by exact hphase)).mpr
    ⟨hf.keeps.program.trans hempty, hr.trans_eq hf.rounds.symm, hf.rounds.trans_le hr5, ?_, ?_, hmax⟩
  · exact (activationsOk_cons _ _ _).mpr ⟨hr.trans_eq hf.rounds.symm, by simp [waitingChain, Activation.step]⟩
  · dsimp only
    rw [hcost, hbuf]
    rfl

theorem closeAttempt_phaseOk {s : State} (hp : s.phase = .emitting) (h : s.PhaseOk) (hacts : s.acts = []) :
    (settle (closeAttempt s)).PhaseOk := by
  obtain ⟨hempty, hr, hr5, -, hcost, -⟩ := (State.phaseOk_emitting hp).mp h
  refine settle_phaseOk (closeAttempt_frame s) hempty hr5 fun u hu => ?_
  obtain ⟨t, ht, ⟨⟩⟩ := Emit.andThen_eq_ok hu
  obtain ⟨w, hw, ht⟩ := Emit.andThen_eq_ok ht
  obtain rfl := append_eq_ok hw
  obtain ⟨rfl, hc⟩ := charge_eq_ok ht
  refine (State.phaseOk_storing rfl).mpr ⟨hempty, hacts, ?_, hc⟩
  have := programCost_append_encode s.cfg.costs s.buf [.ret]
  simp only [List.map_cons, List.map_nil, instrCost_singleton] at this
  dsimp only
  omega

theorem emitStep_phaseOk {s t : State} (hp : s.phase = .emitting) (h : s.PhaseOk) (hs : emitStep s = .next t) :
    t.PhaseOk := by
  obtain ⟨hempty, hr, hr5, hok, hcost, hmax⟩ := (State.phaseOk_emitting hp).mp h
  obtain ⟨hacts, rfl⟩ | ⟨a, rest, e, hacts, he, rfl⟩ := emitStep_cases hs
  · exact closeAttempt_phaseOk hp h hacts
  · refine settle_phaseOk he.frame hempty hr5 fun u hu => ?_
    subst hu
    obtain ⟨d, is, acts, rfl, ha, hc⟩ := he
    refine (State.phaseOk_emitting (by exact hp)).mpr
      ⟨hempty, hr, hr5, ha.activationsOk (hacts ▸ hok), ?_, hc hmax⟩
    have := programCost_append_encode s.cfg.costs s.buf is
    dsimp only
    omega

theorem storeProgram_phaseOk (s : State) : (storeProgram s).PhaseOk := by
  obtain ⟨-, e⟩ | e := storeProgram_cases (s := s) rfl
  · rw [e]
    have hsome : (s.storeSlot s.buf).program?.isSome = true := by rw [storeSlot_program]; rfl
    exact (State.phaseOk_runStart rfl).mpr ⟨hsome, rfl, rfl⟩
  · rw [e]; exact s.takeFault_phaseOk _

theorem startRun_phaseOk {s : State} {half : RunHalf} (hp : s.phase = .runStart half) (h : s.PhaseOk) :
    (startRun half s).PhaseOk := by
  obtain ⟨hsome, hfe⟩ := (State.phaseOk_runStart hp).mp h
  obtain ⟨p, hprog⟩ := Option.isSome_iff_exists.mp hsome
  obtain ⟨acc, freeCount, e⟩ := startRun_form half s
  rw [e]
  exact (State.phaseOk_running rfl).mpr ⟨⟨p, hprog, Nat.zero_le _⟩, hfe.1, hfe.2, fun _ _ h1 => h1⟩

theorem finishRun_phaseOk {s : State} {half : RunHalf} (hsome : s.program?.isSome = true) (hbuf : s.buf = [])
    (hacts : s.acts = []) : (finishRun half s).PhaseOk := by
  cases half with
  | low => exact (State.phaseOk_runStart rfl).mpr ⟨hsome, hbuf, hacts⟩
  | high => exact (State.phaseOk_idle rfl).mpr ⟨hbuf, hacts⟩

theorem runStep_phaseOk {s t : State} {half : RunHalf} (hp : s.phase = .running half) (h : s.PhaseOk)
    (hs : runStep half s = .next t) : t.PhaseOk := by
  obtain ⟨⟨p, hprog, hpc⟩, hbuf, hacts, hsp⟩ := (State.phaseOk_running hp).mp h
  obtain ⟨p', hp', rfl | ⟨w, hctx, hw, he⟩⟩ := runStep_cases hs
  · exact finishRun_phaseOk (by rw [hprog]; rfl) hbuf hacts
  · obtain rfl : p = p' := Option.some.inj (hprog.symm.trans hp')
    have hlt : s.pc < p.length := (List.getElem?_eq_some_iff.mp hw).1
    obtain ⟨acc, ctx, pc, e, hpc', hsp'⟩ | ⟨f, e⟩ := execWord_cases w s hctx
    · cases he.symm.trans e
      refine (State.phaseOk_running (by exact hp)).mpr ⟨⟨p, hprog, ?_⟩, hbuf, hacts, fun d hd h1 => ?_⟩
      · dsimp only; omega
      · have hle := hsp d hd h1
        obtain hshort | ⟨hgrown, hne⟩ := hsp'
        · exact hshort.trans hle
        · have : s.sp ≠ d := fun heq => hne (heq ▸ hd)
          simp only [State.sp] at *
          omega
    · cases he.symm.trans e
      exact s.takeFault_phaseOk f

theorem step_phaseOk {s t : State} (h : s.PhaseOk) (hs : step s = .next t) : t.PhaseOk := by
  unfold step at hs
  cases hp : s.phase with
  | idle => rw [hp] at hs; cases hs; exact acceptRequest_phaseOk hp h
  | fillStart => rw [hp] at hs; cases hs; exact beginFill_phaseOk hp h
  | attemptStart => rw [hp] at hs; cases hs; exact startAttempt_phaseOk hp h
  | emitting => rw [hp] at hs; exact emitStep_phaseOk hp h hs
  | storing => rw [hp] at hs; cases hs; exact storeProgram_phaseOk s
  | runStart half => rw [hp] at hs; cases hs; exact startRun_phaseOk hp h
  | running half => rw [hp] at hs; exact runStep_phaseOk hp h hs

/-! ## The memories -/

/-- What the invariant says of the two memories: canonical seed block, programs within capacity. -/
def State.MemoriesOk (s : State) : Prop :=
  s.seed.wf = true ∧ ∀ (k : Fin 128) (p : Program), s.slots.get k = some p → fits s.cfg.progCap p.length = true

theorem State.MemoriesOk.of_eq {s t : State} (h : s.MemoriesOk) (hc : t.cfg = s.cfg) (hs : t.seed = s.seed)
    (hp : t.slots = s.slots) : t.MemoriesOk := by
  rw [MemoriesOk, hc, hs, hp]; exact h

theorem acceptRequest_memoriesOk {s : State} (h : s.MemoriesOk) : (acceptRequest s).MemoriesOk := by
  obtain ⟨-, e⟩ | ⟨c, block, rest, -, e⟩ | ⟨v, rest, -, ⟨-, e⟩ | ⟨-, e⟩⟩ := acceptRequest_cases (s := s) rfl
  · rw [e]; exact h
  · rw [e]
    refine ⟨ofWords_wf block, fun k p hk => ?_⟩
    cases (new_get c (.ofWords block) k).symm.trans hk
  · rw [e]; exact h
  · rw [e]; exact h

theorem storeProgram_memoriesOk {s : State} (h : s.MemoriesOk) : (storeProgram s).MemoriesOk := by
  obtain ⟨hfits, e⟩ | e := storeProgram_cases (s := s) rfl
  · rw [e]
    refine ⟨h.1, fun k p hk => ?_⟩
    obtain hk : (if k = s.slot then some s.buf else s.slots.get k) = some p :=
      (storeSlot_get s s.buf k).symm.trans hk
    split at hk
    · cases hk; exact hfits
    · exact h.2 k p hk
  · rw [e]; exact h

theorem step_memoriesOk {s t : State} (h : s.MemoriesOk) (hs : step s = .next t) : t.MemoriesOk := by
  by_cases hi : s.phase = .idle
  · exact step_idle hi hs ▸ acceptRequest_memoriesOk h
  · by_cases hst : s.phase = .storing
    · exact step_storing hst hs ▸ storeProgram_memoriesOk h
    · have hk := step_keeps hs hi hst
      exact h.of_eq hk.cfg hk.seed hk.slots

theorem inv_iff (s : State) : s.Inv ↔ s.MemoriesOk ∧ s.PhaseOk :=
  ⟨fun h => ⟨⟨h.seedWf, h.slotFits⟩, h.phaseOk⟩, fun h => ⟨h.1.1, h.1.2, h.2⟩⟩

/-- Settles O52: a step keeps the memories in order, and leads from each legal point of a transaction to a
legal point. -/
theorem everyStepKeepsTheInvariant : Obligations.EveryStepKeepsTheInvariant := by
  intro s t h hs
  obtain ⟨hmem, hphase⟩ := (inv_iff s).mp h
  exact (inv_iff t).mpr ⟨step_memoriesOk hmem hs, step_phaseOk hphase hs⟩

end Sys2Proof.Machine
end

section
/-! A fill is a function of the configuration and the slot (R31, R203): two fills of one slot under one
configuration go through the same values of FE's registers. So the program that `EVALUATE` stores is the one
that a fresh fill of its slot makes. -/

namespace Sys2Proof.Machine

/-! ## Two states that a fill cannot tell apart -/

/-- Equal in what an attempt reads before it clears FE's buffer and cost: the configuration, the slot, the
stream and the rounds. -/
structure SameStream (s t : State) : Prop where
  cfg : s.cfg = t.cfg
  slot : s.slot = t.slot
  s0 : s.s0 = t.s0
  s1 : s.s1 = t.s1
  rounds : s.rounds = t.rounds

/-- Equal in what FE reads and writes inside an attempt. -/
structure SameFill (s t : State) : Prop extends SameStream s t where
  buf : s.buf = t.buf
  cost : s.cost = t.cost
  phase : s.phase = t.phase

/-- Two pieces of an attempt that end alike. -/
inductive Emit.Same : Emit → Emit → Prop where
  | ok {s t : State} (h : SameFill s t) : Same (.ok s) (.ok t)
  | abandoned {s t : State} (h : SameFill s t) : Same (.abandoned s) (.abandoned t)
  | lookupFailed (base residue : Nat) {s t : State} (h : SameFill s t) :
      Same (.lookupFailed base residue s) (.lookupFailed base residue t)

theorem Emit.Same.andThen {e e' : Emit} {k : State → Emit} (h : e.Same e')
    (hk : ∀ s t, SameFill s t → (k s).Same (k t)) : (e.andThen k).Same (e'.andThen k) := by
  cases h with
  | ok h => exact hk _ _ h
  | abandoned h => exact .abandoned h
  | lookupFailed base residue h => exact .lookupFailed base residue h

/-- Two conditionals with the same truth value and related branches are related. -/
theorem rel_ite {α : Type} {R : α → α → Prop} {p q : Prop} [Decidable p] [Decidable q] {a b a' b' : α}
    (hpq : p ↔ q) (ha : R a a') (hb : R b b') : R (if p then a else b) (if q then a' else b') := by
  by_cases hp : p
  · rwa [if_pos hp, if_pos (hpq.mp hp)]
  · rwa [if_neg hp, if_neg (mt hpq.mpr hp)]

section Pieces

variable {s t : State}

theorem SameFill.draw_value (h : SameFill s t) : s.draw.1 = t.draw.1 := by
  simp only [State.draw, h.cfg, h.s0, h.s1]

theorem SameFill.draw (h : SameFill s t) : SameFill s.draw.2 t.draw.2 where
  cfg := h.cfg
  slot := h.slot
  s0 := by simp only [State.draw_s0, h.cfg, h.s0, h.s1]
  s1 := by simp only [State.draw_s1, h.cfg, h.s0, h.s1]
  rounds := h.rounds
  buf := h.buf
  cost := h.cost
  phase := h.phase

theorem charge_same {c d : Nat} (hcd : c = d) (h : SameFill s t) : (charge c s).Same (charge d t) := by
  subst hcd
  have hc : SameFill { s with cost := s.cost + c } { t with cost := t.cost + c } :=
    { h with cost := congrArg (· + c) h.cost }
  exact rel_ite (by rw [h.cfg, h.cost]) (.abandoned hc) (.ok hc)

theorem append_same {i j : Instr} (hij : i = j) (h : SameFill s t) : (append i s).Same (append j t) := by
  subst hij
  have hb : SameFill { s with buf := s.buf ++ [encode i] } { t with buf := t.buf ++ [encode i] } :=
    { h with buf := congrArg (· ++ [encode i]) h.buf }
  exact charge_same (by rw [h.cfg]) hb

theorem select_same {base m : Nat} {choice : Nat → State → Emit}
    (hk : ∀ k s t, SameFill s t → (choice k s).Same (choice k t)) (h : SameFill s t) :
    (select base m choice s).Same (select base m choice t) := by
  simp only [select, h.cfg, h.draw_value]
  split
  · exact hk _ _ _ h.draw
  · exact .lookupFailed _ _ h.draw

theorem finalChoice_same (k : Nat) (s t : State) (h : SameFill s t) :
    (finalChoice k s).Same (finalChoice k t) := by
  rcases k with _ | _ | k
  · exact append_same (by rw [h.draw_value]) h.draw
  · exact append_same rfl h
  · exact append_same (by rw [h.draw_value]) h.draw

theorem addOrSubtract_same (h : SameFill s t) : (addOrSubtract s).Same (addOrSubtract t) :=
  rel_ite (by rw [h.draw_value, h.draw.draw.cfg])
    (append_same (by rw [h.draw.draw_value]) h.draw.draw) (append_same (by rw [h.draw.draw_value]) h.draw.draw)

theorem innerChoice_same (k : Nat) (s t : State) (h : SameFill s t) :
    (innerChoice k s).Same (innerChoice k t) := by
  rcases k with _ | _ | _ | _ | _ | _ | _ | k
  · exact append_same rfl h
  · exact append_same rfl h
  · exact append_same rfl h
  · exact append_same rfl h
  · exact append_same rfl h
  · exact append_same (by rw [h.draw_value]) h.draw
  · exact addOrSubtract_same h
  · exact append_same rfl h

theorem subroutineChoice_same (k : Nat) (s t : State) (h : SameFill s t) :
    (subroutineChoice k s).Same (subroutineChoice k t) := by
  rcases k with _ | _ | _ | _ | _ | k <;> exact append_same rfl h

theorem innerEnd_same (h : SameFill s t) : (innerEnd s).Same (innerEnd t) := select_same innerChoice_same h

theorem subroutineEnd_same (h : SameFill s t) : (subroutineEnd s).Same (subroutineEnd t) :=
  (select_same subroutineChoice_same h).andThen fun _ _ => append_same rfl

theorem emitProduction_same (n : Nat) :
    ∀ (k : Production) {s t : State}, SameFill s t → (emitProduction k n s).Same (emitProduction k n t) := by
  induction n with
  | zero => intro k s t h; cases k <;> exact select_same finalChoice_same h
  | succ n ih =>
    have call : ∀ {s t : State}, SameFill s t →
        (emitProduction (coinProduction s.draw.1) n s.draw.2).Same
          (emitProduction (coinProduction t.draw.1) n t.draw.2) := by
      intro s t h
      rw [h.draw_value]
      exact ih _ h.draw
    intro k s t h
    cases k with
    | inner => exact (call h).andThen fun _ _ => innerEnd_same
    | subroutine =>
      exact (append_same rfl h).andThen fun _ _ h => (call h).andThen fun _ _ h =>
        (append_same rfl h).andThen fun _ _ h => (call h).andThen fun _ _ => subroutineEnd_same

end Pieces

/-! ## Attempts and fills -/

section Attempts

variable {s t : State}

theorem seedGenerators_same {x y : DWord} (hxy : x = y) (h : SameFill s t) :
    SameFill (s.seedGenerators x) (t.seedGenerators y) := by
  subst hxy
  exact { h with s0 := rfl, s1 := rfl }

theorem openAttempt_same (h : SameStream s t) : (openAttempt s).Same (openAttempt t) := by
  have hc : SameFill { s with buf := [], cost := 0, acts := [], phase := .emitting }
      { t with buf := [], cost := 0, acts := [], phase := .emitting } :=
    { h with buf := rfl, cost := rfl, phase := rfl }
  exact charge_same rfl (rel_ite (by rw [hc.cfg]) (seedGenerators_same (by rw [hc.slot]) hc) hc)

theorem closeAttempt_same (h : SameFill s t) : (closeAttempt s).Same (closeAttempt t) :=
  ((append_same rfl h).andThen fun _ _ => charge_same rfl).andThen fun _ _ h => .ok { h with phase := rfl }

theorem emitAttempt_same (h : SameStream s t) : (emitAttempt s).Same (emitAttempt t) := by
  unfold emitAttempt
  rw [h.rounds]
  exact ((openAttempt_same h).andThen fun _ _ => emitProduction_same _ _).andThen fun _ _ => closeAttempt_same

theorem takeFault_same (h : SameStream s t) (f g : FaultRecord) : SameFill (s.takeFault f) (t.takeFault g) :=
  ⟨⟨h.cfg, h.slot, h.s0, h.s1, rfl⟩, rfl, rfl, rfl⟩

/-- A production appends words within the budget, or stops. -/
theorem emitProduction_meets (n : Nat) :
    ∀ (k : Production) (s : State), (emitProduction k n s).Meets s fun _ _ => True := by
  induction n with
  | zero => intro k s; cases k <;> exact (emitFinal_meets s).mono fun _ _ _ => trivial
  | succ n ih =>
    have call (s : State) : (emitProduction (coinProduction s.draw.1) n s.draw.2).Meets s fun _ _ => True :=
      Emit.Meets.after (emitted_draw s) (ih _ _)
    intro k s
    cases k with
    | inner => exact (call s).andThen fun t _ _ _ _ => (innerEnd_meets t).mono fun _ _ _ => trivial
    | subroutine =>
      refine (append_meets .subroutine s).andThen fun t _ _ _ _ => (call t).andThen fun t _ _ _ _ => ?_
      refine (append_meets .saveToContext t).andThen fun t _ _ _ _ => (call t).andThen fun t _ _ _ _ => ?_
      exact (subroutineEnd_meets t).mono fun _ _ _ => trivial

theorem emitAttempt_frame (s : State) : AttemptFrame s (emitAttempt s).state :=
  Emit.frame_andThen (Emit.frame_andThen (openAttempt_frame s) fun t => (emitProduction_meets _ _ t).frame)
    closeAttempt_frame

/-- A completed attempt hands its program over (R199). -/
theorem emitAttempt_eq_ok (h : emitAttempt s = .ok t) : t.phase = .storing := by
  obtain ⟨u, -, h⟩ := Emit.andThen_eq_ok h
  obtain ⟨v, -, ⟨⟩⟩ := Emit.andThen_eq_ok h
  rfl

theorem abandonAttempt_same (h : SameFill s t) : SameStream (abandonAttempt s) (abandonAttempt t) :=
  rel_ite (by rw [h.rounds]) (takeFault_same h.toSameStream _ _).toSameStream
    ⟨h.cfg, h.slot, h.s0, h.s1, congrArg (· - 1) h.rounds⟩

end Attempts

/-- A fill that may still make `n` attempts: the next one has `n` rounds, and with none left the fill has
failed (R196, R201). -/
def AttemptsLeft : Nat → State → Prop
  | 0, s => s.phase = .idle ∧ s.buf = [] ∧ s.cost = 0
  | n + 1, s => s.rounds = n + 1

theorem abandonAttempt_attemptsLeft {n : Nat} {s : State} (h : s.rounds = n + 1) :
    AttemptsLeft n (abandonAttempt s) := by
  unfold abandonAttempt
  cases n with
  | zero => rw [if_pos h.le]; exact ⟨rfl, rfl, rfl⟩
  | succ n => rw [if_neg (by omega)]; exact congrArg (· - 1) h

theorem emitAttempt_abandoned_attemptsLeft {n : Nat} {s t : State} (hn : AttemptsLeft (n + 1) s)
    (h : emitAttempt s = .abandoned t) : AttemptsLeft n (abandonAttempt t) := by
  have hf := emitAttempt_frame s
  rw [h] at hf
  exact abandonAttempt_attemptsLeft (hf.rounds.trans hn)

theorem emitLoop_keeps (n : Nat) : ∀ s : State, KeepsMemories s (emitLoop n s) := by
  induction n with
  | zero => exact .refl
  | succ n ih =>
    intro s
    have hk := (emitAttempt_frame s).keeps
    unfold emitLoop
    cases he : emitAttempt s with
    | ok t => rw [he] at hk; exact hk
    | abandoned t => rw [he] at hk; exact (hk.trans (abandonAttempt_keeps t)).trans (ih _)
    | lookupFailed base residue t => rw [he] at hk; exact hk.trans (.takeFault t _)

/-- The attempts end with a program to store or with a fault taken (R196, R201). -/
theorem emitLoop_phase (n : Nat) :
    ∀ s : State, AttemptsLeft n s → (emitLoop n s).phase = .storing ∨ (emitLoop n s).phase = .idle := by
  induction n with
  | zero => intro s h; exact .inr h.1
  | succ n ih =>
    intro s h
    unfold emitLoop
    cases he : emitAttempt s with
    | ok t => exact .inl (emitAttempt_eq_ok he)
    | abandoned t => exact ih _ (emitAttempt_abandoned_attemptsLeft h he)
    | lookupFailed base residue t => exact .inr rfl

theorem emitLoop_same (n : Nat) :
    ∀ s t : State, SameStream s t → AttemptsLeft n s → AttemptsLeft n t →
      SameFill (emitLoop n s) (emitLoop n t) := by
  induction n with
  | zero =>
    rintro s t h ⟨hp, hb, hc⟩ ⟨hp', hb', hc'⟩
    exact { h with buf := hb.trans hb'.symm, cost := hc.trans hc'.symm, phase := hp.trans hp'.symm }
  | succ n ih =>
    intro s t h hs ht
    have hsame := emitAttempt_same h
    unfold emitLoop
    generalize he : emitAttempt s = e at hsame ⊢
    generalize he' : emitAttempt t = e' at hsame ⊢
    cases hsame with
    | ok hu => exact hu
    | abandoned hu =>
      exact ih _ _ (abandonAttempt_same hu) (emitAttempt_abandoned_attemptsLeft hs he)
        (emitAttempt_abandoned_attemptsLeft ht he')
    | lookupFailed base residue hu => exact takeFault_same hu.toSameStream _ _

theorem fillSlot_keeps (s : State) : KeepsMemories s (fillSlot s) :=
  (beginFill_keeps s).trans (emitLoop_keeps 5 _)

theorem beginFill_attemptsLeft (s : State) : AttemptsLeft 5 (beginFill s) := rfl

theorem fillSlot_phase (s : State) : (fillSlot s).phase = .storing ∨ (fillSlot s).phase = .idle :=
  emitLoop_phase 5 _ (beginFill_attemptsLeft s)

theorem beginFill_same {s t : State} (hcfg : s.cfg = t.cfg) (hslot : s.slot = t.slot) :
    SameStream (beginFill s) (beginFill t) where
  cfg := hcfg
  slot := hslot
  s0 := congrArg (fun k => sgMix (sgIncrement + slotSeed k)) hslot
  s1 := congrArg (fun k => sgMix (sgIncrement + (sgIncrement + slotSeed k))) hslot
  rounds := rfl

/-- The program a fill makes depends on the configuration and the slot only (R31, R203). -/
theorem fillSlot_same {s t : State} (hcfg : s.cfg = t.cfg) (hslot : s.slot = t.slot) :
    SameFill (fillSlot s) (fillSlot t) :=
  emitLoop_same 5 _ _ (beginFill_same hcfg hslot) (beginFill_attemptsLeft s) (beginFill_attemptsLeft t)

/-! ## The two runs write neither memory -/

theorem runWords_keeps (ws : List IWord) {s : State} (h : s.ctx ≠ []) : KeepsMemories s (runWords ws s) := by
  obtain ⟨acc, ctx, pc, e | ⟨f, e⟩⟩ := runWords_form ws s h <;> exact e ▸ ⟨rfl, rfl, rfl, rfl⟩

theorem startRun_ctx (half : RunHalf) (s : State) : (startRun half s).ctx = [0] := by
  obtain ⟨acc, freeCount, e⟩ := startRun_form half s
  rw [e]

theorem performRun_keeps (half : RunHalf) (s : State) : KeepsMemories s (performRun half s) := by
  have hk : KeepsMemories s (runWords (s.program?.getD []) (startRun half s)) :=
    (startRun_keeps half s).trans (runWords_keeps _ (by simp [startRun_ctx]))
  dsimp only [performRun]
  split
  · exact hk
  · exact hk.trans (finishRun_keeps half _)

theorem performRuns_keeps (s : State) : KeepsMemories s (performRuns s) := by
  dsimp only [performRuns]
  split
  · exact performRun_keeps .low s
  · exact (performRun_keeps .low s).trans (performRun_keeps .high _)

/-! ## The coherent store -/

theorem State.Coherent.of_keeps {s t : State} (h : s.Coherent) (hk : KeepsMemories s t) : t.Coherent := by
  rw [Coherent, hk.cfg, hk.seed, hk.slots]
  exact h

/-- Storing the program of a completed fill of the slot in use keeps the store coherent: the slot then holds
what a fresh fill of it makes. -/
theorem storeProgram_fillSlot_coherent {s : State} (h : s.Coherent) (hp : (fillSlot s).phase = .storing) :
    (storeProgram (fillSlot s)).Coherent := by
  have hk := fillSlot_keeps s
  have hfill : (fillSlot s).Coherent := h.of_keeps hk
  obtain ⟨-, e⟩ | e := storeProgram_cases (s := fillSlot s) rfl
  · rw [e]
    intro value p hget
    obtain hget : (if slotOf value = (fillSlot s).slot then some (fillSlot s).buf
        else (fillSlot s).slots.get (slotOf value)) = some p := (storeSlot_get _ _ _).symm.trans hget
    split at hget
    · rename_i hslot
      cases hget
      have same : SameFill (fillSlot { State.new (fillSlot s).cfg (fillSlot s).seed with value := value })
          (fillSlot s) := fillSlot_same hk.cfg (hslot.trans hk.slot)
      exact ⟨same.phase.trans hp, same.buf⟩
    · exact hfill value p hget
  · rw [e]
    exact hfill.of_keeps (.takeFault _ _)

theorem performFill_coherent {s : State} (h : s.Coherent) : (performFill s).Coherent := by
  dsimp only [performFill]
  split
  · exact h.of_keeps (fillSlot_keeps s)
  · rename_i hidle
    exact storeProgram_fillSlot_coherent h ((fillSlot_phase s).resolve_right hidle)

/-- Settles O56: an `EVALUATE` writes the store only with the program of a fill, and `fillSlot_same` makes that
the program of a fresh fill. -/
theorem evaluateKeepsTheStoreCoherent : Obligations.EvaluateKeepsTheStoreCoherent := by
  intro s v h
  have hv : State.Coherent { s with value := v } := h
  dsimp only [evaluate]
  split
  · exact hv.of_keeps (performRuns_keeps _)
  · have hfill := performFill_coherent hv
    split
    · exact hfill
    · exact hfill.of_keeps (performRuns_keeps _)

end Sys2Proof.Machine
end

section
/-! A step of a run, and the canonical form of the seed block. -/

namespace Sys2Proof.Machine

/-! ## A step of a run -/

theorem execWord_of_decode {w : IWord} {i : Instr} (h : decode w = .instr i) (s : State) :
    execWord w s = exec i s := by
  rw [execWord, h]

theorem step_running {half : RunHalf} {s : State} (h : s.phase = .running half) : step s = runStep half s := by
  rw [step, h]

/-- Where a run goes on: with a live context slot and a word at `pc`, its step performs that word (R165). -/
theorem runStep_of_word {s : State} {p : Program} {w : IWord} (half : RunHalf) (hp : s.program? = some p)
    (hctx : s.ctx ≠ []) (hw : p[s.pc]? = some w) : runStep half s = execWord w s := by
  have hsp : s.sp ≠ 0 := mt List.length_eq_zero_iff.mp hctx
  simp only [runStep, hp, if_neg hsp, hw]

/-- Settles O17: the step of a running core is `runStep`, which performs the word at `pc`, and a word that
decodes is performed as its instruction. -/
theorem stepRunsTheDecodedInstruction : Obligations.StepRunsTheDecodedInstruction := by
  intro s half p w i hphase hp hctx hw hdecode
  calc step s = runStep half s := step_running hphase
    _ = execWord w s := runStep_of_word half hp hctx hw
    _ = exec i s := execWord_of_decode hdecode s

/-! ## Cells by rising address -/

theorem risingFrom_cons (lo : Nat) (c : Nat × Word) (cells : List (Nat × Word)) :
    risingFrom lo (c :: cells) = true ↔ lo ≤ c.1 ∧ risingFrom (c.1 + 1) cells = true := by
  simp only [risingFrom, Bool.and_eq_true, decide_eq_true_eq]

theorem le_of_mem_risingFrom {cells : List (Nat × Word)} : ∀ {lo : Nat} {c : Nat × Word},
    risingFrom lo cells = true → c ∈ cells → lo ≤ c.1 := by
  induction cells with
  | nil => intro lo c _ hc; cases hc
  | cons d cells ih =>
    intro lo c h hc
    obtain ⟨hlo, hrest⟩ := (risingFrom_cons lo d cells).mp h
    rcases List.mem_cons.mp hc with rfl | hc
    · exact hlo
    · exact hlo.trans (Nat.le_of_succ_le (ih hrest hc))

theorem pairwise_of_risingFrom {cells : List (Nat × Word)} : ∀ {lo : Nat},
    risingFrom lo cells = true → cells.Pairwise (fun c d => c.1 < d.1) := by
  induction cells with
  | nil => intro lo _; exact .nil
  | cons d cells ih =>
    intro lo h
    obtain ⟨-, hrest⟩ := (risingFrom_cons lo d cells).mp h
    exact .cons (fun c hc => le_of_mem_risingFrom hrest hc) (ih hrest)

theorem cellAt_cons_self (c : Nat × Word) (cells : List (Nat × Word)) : cellAt (c :: cells) c.1 = c.2 :=
  if_pos rfl

theorem cellAt_cons_of_ne {c : Nat × Word} {a : Nat} (cells : List (Nat × Word)) (h : c.1 ≠ a) :
    cellAt (c :: cells) a = cellAt cells a :=
  if_neg h

theorem cellAt_of_mem {cells : List (Nat × Word)} {c : Nat × Word}
    (h : cells.Pairwise (fun c d => c.1 < d.1)) (hc : c ∈ cells) : cellAt cells c.1 = c.2 := by
  induction h with
  | nil => cases hc
  | @cons d cells hd _ ih =>
    rcases List.mem_cons.mp hc with rfl | hc
    · exact cellAt_cons_self c cells
    · exact (cellAt_cons_of_ne cells (hd c hc).ne).trans (ih hc)

/-- An unlisted address reads as zero, so a word that is not zero is read from a listed cell. -/
theorem mem_of_cellAt_ne_zero {cells : List (Nat × Word)} {a : Nat} (h : cellAt cells a ≠ 0) :
    (a, cellAt cells a) ∈ cells := by
  induction cells with
  | nil => exact absurd rfl h
  | cons d cells ih =>
    by_cases hd : d.1 = a
    · subst hd
      rw [cellAt_cons_self]
      exact List.mem_cons_self
    · rw [cellAt_cons_of_ne cells hd] at h ⊢
      exact List.mem_cons_of_mem d (ih h)

/-! ## Canonical seed blocks -/

namespace SeedBlock

/-- The reads of R52 that are answered are those below the block's length, whatever cells it lists. -/
theorem read_isSome (m : SeedBlock) (a : Nat) : (m.read a).isSome = true ↔ a < m.len := by
  unfold read
  split <;> simp_all

theorem wf_iff (m : SeedBlock) :
    m.wf = true ↔ risingFrom 0 m.cells = true ∧ ∀ c ∈ m.cells, c.1 < m.len ∧ c.2 ≠ 0 := by
  simp [wf]

/-- The cells of a canonical block are exactly its reads of words that are not zero. -/
theorem mem_cells_iff {m : SeedBlock} (h : m.wf = true) (c : Nat × Word) :
    c ∈ m.cells ↔ m.read c.1 = some c.2 ∧ c.2 ≠ 0 := by
  obtain ⟨hrising, hcells⟩ := m.wf_iff.mp h
  constructor
  · intro hc
    obtain ⟨hlen, hne⟩ := hcells c hc
    exact ⟨by rw [read, if_pos hlen, cellAt_of_mem (pairwise_of_risingFrom hrising) hc], hne⟩
  · rintro ⟨hread, hne⟩
    obtain ⟨-, hword⟩ : c.1 < m.len ∧ cellAt m.cells c.1 = c.2 := by simpa [read] using hread
    have hmem := mem_of_cellAt_ne_zero (hword ▸ hne)
    rwa [hword] at hmem

theorem len_eq_of_read {m m' : SeedBlock} (h : ∀ a, m.read a = m'.read a) : m.len = m'.len := by
  refine eq_of_forall_lt_iff fun a => ?_
  rw [← m.read_isSome a, ← m'.read_isSome a, h a]

theorem cells_eq_of_read {m m' : SeedBlock} (hm : m.wf = true) (hm' : m'.wf = true)
    (h : ∀ a, m.read a = m'.read a) : m.cells = m'.cells := by
  have hsorted := pairwise_of_risingFrom (m.wf_iff.mp hm).1
  have hsorted' := pairwise_of_risingFrom (m'.wf_iff.mp hm').1
  have hasymm : Std.Asymm fun c d : Nat × Word => c.1 < d.1 := ⟨fun _ _ => Nat.lt_asymm⟩
  have hirrefl : Std.Irrefl fun c d : Nat × Word => c.1 < d.1 := ⟨fun _ => Nat.lt_irrefl _⟩
  refine hsorted.eq_of_mem_iff hsorted' fun c => ?_
  rw [mem_cells_iff hm, mem_cells_iff hm', h]

end SeedBlock

/-- Settles O59: the reads that are answered give the length, and those of words that are not zero give the
cells, which stand in the one order of rising addresses. -/
theorem canonicalSeedBlocksThatReadAlikeAreEqual : Obligations.CanonicalSeedBlocksThatReadAlikeAreEqual := by
  rintro ⟨len, cells⟩ ⟨len', cells'⟩ hm hm' h
  obtain rfl : len = len' := SeedBlock.len_eq_of_read h
  obtain rfl : cells = cells' := SeedBlock.cells_eq_of_read hm hm' h
  rfl

end Sys2Proof.Machine
end

section
/-! The decoder and the encoder read each other, and what the core does at a word that names no instruction. -/

namespace Sys2Proof.Machine

/-! ## What the decoder answers -/

/-- `op` as a number: a word is below 2^40, so nothing stands above bit 39 (R71). -/
theorem opField_toNat (w : IWord) : (opField w).toNat = w.toNat / 2 ^ 32 := by
  have := w.isLt
  rw [opField, BitVec.extractLsb'_toNat, Nat.shiftRight_eq_div_pow]
  omega

/-- The opcode numbers of the table end at 0x14 (R72). -/
theorem opcode_toNat_lt (i : Instr) : (opcode i).toNat < 0x15 := by
  cases i <;> simp [opcode]

/-- The instruction `i` is what the two fields of `w` spell: its opcode stands in `op`, and an immediate it
carries is `imm` (R71, R73). -/
def SpelledBy (w : IWord) (i : Instr) : Prop :=
  opcode i = opField w ∧ ∀ imm, immediate? i = some imm → imm = immField w

/-- All the decoder can do: it answers an instruction that the fields spell, or names an `op` above 0x14
(R75, R76). -/
theorem decode_cases (w : IWord) :
    (∃ i, decode w = .instr i ∧ SpelledBy w i) ∨
      (decode w = .unknown (opField w) ∧ 0x15 ≤ (opField w).toNat) := by
  have spelled {i : Instr} {n : Nat} (hop : (opField w).toNat = n) (hi : (opcode i).toNat = n)
      (himm : ∀ imm, immediate? i = some imm → imm = immField w) :
      ∃ j, Decoded.instr i = .instr j ∧ SpelledBy w j :=
    ⟨i, rfl, BitVec.eq_of_toNat_eq (hi.trans hop.symm), himm⟩
  unfold decode
  split
  case h_22 =>
    refine .inr ⟨rfl, ?_⟩
    simp only [imp_false] at *
    omega
  all_goals exact .inl (spelled ‹_› rfl (by simp [immediate?]))

theorem spelledBy_of_decode {w : IWord} {i : Instr} (h : decode w = .instr i) : SpelledBy w i := by
  obtain ⟨j, hj, hw⟩ | ⟨hu, -⟩ := decode_cases w
  · cases hj.symm.trans h; exact hw
  · cases hu.symm.trans h

/-- The words the decoder rejects, in terms of the `op` field. -/
theorem decode_eq_unknown_iff (w : IWord) (op : BitVec 8) :
    decode w = .unknown op ↔ op = opField w ∧ 0x15 ≤ (opField w).toNat := by
  obtain ⟨i, hi, hop, -⟩ | ⟨hu, hlarge⟩ := decode_cases w
  · have := opcode_toNat_lt i
    rw [hi, ← hop]
    exact ⟨nofun, fun h => absurd h.2 (by omega)⟩
  · simp [hu, hlarge, eq_comm]

/-! ## The canonical word -/

/-- Keeping bits 39:32 of a word clears its `imm` field. -/
theorem and_opMask (w : IWord) : w &&& 0xFF00000000 = opField w ++ 0#32 := by
  have mask : (0xFF00000000 : IWord) = BitVec.allOnes 8 ++ 0#32 := by decide
  calc w &&& 0xFF00000000 = (opField w ++ immField w) &&& (BitVec.allOnes 8 ++ 0#32) := by
        rw [append_fields, mask]
    _ = opField w ++ 0#32 := by rw [BitVec.and_append, BitVec.and_allOnes, BitVec.and_zero]

/-- Settles O1. -/
theorem decodeReadsBackEveryEncoding : Obligations.DecodeReadsBackEveryEncoding := decode_encode

/-- Settles O2: the fields of the word spell the instruction; with an immediate the encoder puts both of them
back, and without one it puts back `op` above zeros (R74). -/
theorem decodedWordIsEncodingUpToIgnoredBits : Obligations.DecodedWordIsEncodingUpToIgnoredBits := by
  intro w i h
  obtain ⟨hop, himm⟩ := spelledBy_of_decode h
  rw [encode, hop]
  cases hi : immediate? i with
  | some imm =>
    rw [himm imm hi]
    exact append_fields w
  | none => exact (and_opMask w).symm

/-- Settles O3: a word is unknown by its `op` field, which is its value divided by 2^32. -/
theorem unknownWordsAreThoseAboveOpcodeFourteen : Obligations.UnknownWordsAreThoseAboveOpcodeFourteen := by
  intro w op
  rw [decode_eq_unknown_iff, ← BitVec.toNat_inj, opField_toNat]

/-- Settles O4: each word evaluates to what V19 lists. -/
theorem sampleWordsDecodeAsTheSpecLists : Obligations.SampleWordsDecodeAsTheSpecLists := by
  unfold Obligations.SampleWordsDecodeAsTheSpecLists
  decide

/-! ## Reaching a word that names no instruction -/

theorem execWord_of_unknown {w : IWord} {op : BitVec 8} (h : decode w = .unknown op) (s : State) :
    execWord w s = .next (s.takeFault (.unknownOpcode s.slot s.pc op)) := by
  rw [execWord, h]

/-- Settles O18: the step of a running core performs the word at `pc`, and a word above opcode 0x14 decodes to
its unknown `op`, which is performed as the fault. -/
theorem unknownOpcodeFaultsWhenReached : Obligations.UnknownOpcodeFaultsWhenReached := by
  intro s half p w hphase hp hctx hw hlarge
  have hdecode : decode w = .unknown (opField w) :=
    (decode_eq_unknown_iff w _).mpr ⟨rfl, hlarge.trans_eq (opField_toNat w).symm⟩
  calc step s = runStep half s := step_running hphase
    _ = execWord w s := runStep_of_word half hp hctx hw
    _ = .next (s.takeFault (.unknownOpcode s.slot s.pc (opField w))) := execWord_of_unknown hdecode s

end Sys2Proof.Machine
end

section
/-! The programs FE completes: what the productions of the grammar make, and the attempt around them. -/

namespace Sys2Proof.Machine

/-! ## Scopes -/

theorem scopesAfter_subroutine {d : Nat} (h : d < 4) (is : List Instr) :
    scopesAfter d (.subroutine :: is) = scopesAfter (d + 1) is := by
  rw [scopesAfter, if_pos h]

theorem scopesAfter_ret (d : Nat) (is : List Instr) : scopesAfter (d + 1) (.ret :: is) = scopesAfter d is := rfl

/-- Only SUBROUTINE and RETURN move the count of open scopes (R160). -/
theorem scopesAfter_of_ne {i : Instr} (hsub : i ≠ .subroutine) (hret : i ≠ .ret) (d : Nat) (is : List Instr) :
    scopesAfter d (i :: is) = scopesAfter d is := by
  cases i <;> simp_all [scopesAfter]

/-- The scopes of a program in two parts: the second starts with those the first leaves open (R79). -/
theorem scopesAfter_append (d : Nat) (is js : List Instr) :
    scopesAfter d (is ++ js) = (scopesAfter d is).bind fun e => scopesAfter e js := by
  induction d, is using scopesAfter.induct with
  | case1 d => rfl
  | case2 d rest hd ih => simpa [scopesAfter, hd] using ih
  | case3 d rest hd => simp [scopesAfter, hd]
  | case4 rest => rfl
  | case5 d rest ih => exact ih
  | case6 d i rest hsub hret hret' ih =>
    have hne : i ≠ .ret := by cases d <;> simp_all
    rw [List.cons_append, scopesAfter_of_ne hsub hne, scopesAfter_of_ne hsub hne, ih]

/-- A piece that closes every scope it opens hands on the scopes it started with. -/
theorem scopesAfter_append_of_closed {d : Nat} {is : List Instr} (h : scopesAfter d is = some d)
    (js : List Instr) : scopesAfter d (is ++ js) = scopesAfter d js := by
  rw [scopesAfter_append, h, Option.bind_some]

/-! ## The words a lookup selects -/

/-- What the words of the three phases share: each has the form FE gives it, and none opens or closes a scope
(R187, R191, R195). -/
structure SelectedWord (i : Instr) : Prop where
  feMade : i.feMade = true
  ne_subroutine : i ≠ .subroutine
  ne_ret : i ≠ .ret

namespace SelectedWord

variable {i : Instr}

theorem of_isFinal : ∀ {i : Instr}, i.isFinal = true → SelectedWord i
  | .loadArg _, _ | .loadInput, _ => ⟨rfl, nofun, nofun⟩
  | .loadFromBuffer _, h => ⟨h, nofun, nofun⟩

theorem of_isInner : ∀ {i : Instr}, i.isInner = true → SelectedWord i
  | .bitwiseNot, _ | .negate, _ | .addOne, _ | .subtractOne, _ | .bitwiseXor _, _ | .addArg _, _
  | .subtractArg _, _ => ⟨rfl, nofun, nofun⟩
  | .shuffle _, h | .loadFromBufferIndirect _, h => ⟨h, nofun, nofun⟩

theorem of_isCombine : ∀ {i : Instr}, i.isCombine = true → SelectedWord i
  | .addContext, _ | .subtractContext, _ | .subtractFromContext, _ | .multiplyContext, _ | .shlContext, _
  | .shrContext, _ => ⟨rfl, nofun, nofun⟩

theorem scopesAfter_cons (h : SelectedWord i) (d : Nat) (is : List Instr) :
    scopesAfter d (i :: is) = scopesAfter d is := scopesAfter_of_ne h.ne_subroutine h.ne_ret d is

end SelectedWord

/-! ## What the productions make -/

/-- The grammar read as a language (R187, R190, R194): with `d` draws a production at step `n + 1` can append
the words `is`. -/
inductive Produces : Nat → Nat → List Instr → Prop where
  | final {d : Nat} {i : Instr} (hd : d ≤ 2) (hi : i.isFinal = true) : Produces 0 d [i]
  | inner {n d e : Nat} {is : List Instr} {i : Instr} (body : Produces n d is) (he : e ≤ 3)
      (hi : i.isInner = true) : Produces (n + 1) (1 + d + e) (is ++ [i])
  | subroutine {n d e : Nat} {is js : List Instr} {i : Instr} (first : Produces n d is)
      (second : Produces n e js) (hi : i.isCombine = true) :
      Produces (n + 1) (1 + d + (1 + e + 1)) (.subroutine :: (is ++ .saveToContext :: (js ++ [i, .ret])))

/-- A completed production has made words of the grammar, within the budget. -/
theorem emitProduction_produces (n : Nat) :
    ∀ (k : Production) (s : State), (emitProduction k n s).Meets s (Produces n) := by
  induction n with
  | zero =>
    have final (s : State) : (emitFinal s).Meets s (Produces 0) :=
      (emitFinal_meets s).mono fun d is ⟨hd, i, his, hi⟩ => his ▸ .final hd hi
    intro k s
    cases k <;> exact final s
  | succ n ih =>
    have call (s : State) : (emitProduction (coinProduction s.draw.1) n s.draw.2).Meets s
        fun d is => ∃ e, d = 1 + e ∧ Produces n e is :=
      Emit.Meets.after (emitted_draw s) ((ih _ _).mono fun d is h => ⟨d, rfl, h⟩)
    intro k s
    cases k with
    | inner =>
      refine (call s).andThen fun t _ is _ ⟨d, hd, body⟩ => (innerEnd_meets t).mono ?_
      rintro e _ ⟨he, i, rfl, hi⟩
      exact hd ▸ .inner body he hi
    | subroutine =>
      refine (append_meets .subroutine s).andThen fun t _ _ _ ⟨h₁, e₁⟩ => (call t).andThen ?_
      rintro t _ is - ⟨d, rfl, first⟩
      refine (append_meets .saveToContext t).andThen fun t _ _ _ ⟨h₂, e₂⟩ => (call t).andThen ?_
      rintro t _ js - ⟨e, rfl, second⟩
      refine (subroutineEnd_meets t).mono ?_
      rintro _ _ ⟨rfl, i, rfl, hi⟩
      subst h₁ e₁ h₂ e₂
      simpa using Produces.subroutine first second hi

namespace Produces

variable {n d : Nat} {is : List Instr}

theorem one_le_length (h : Produces n d is) : 1 ≤ is.length := by
  cases h <;> simp

/-- The recurrence X of R205. -/
theorem length_le_longest (h : Produces n d is) : is.length ≤ longest n := by
  induction h with
  | final => simp [longest]
  | inner body _ _ ih => simp only [longest, List.length_append, List.length_singleton]; omega
  | subroutine _ _ _ ih₁ ih₂ =>
    simp only [longest, List.length_append, List.length_cons, List.length_nil]
    omega

/-- The recurrence D of R205. -/
theorem draws_le_mostDraws (h : Produces n d is) : d ≤ mostDraws n := by
  induction h with
  | final hd _ => exact hd
  | @inner n _ _ _ _ _ he _ ih =>
    have : 2 ≤ mostDraws n := by cases n <;> simp [mostDraws]
    simp only [mostDraws]
    omega
  | subroutine _ _ _ ih₁ ih₂ => simp only [mostDraws]; omega

theorem all_feMade (h : Produces n d is) : is.all Instr.feMade = true := by
  induction h with
  | final _ hi => simp [(SelectedWord.of_isFinal hi).feMade]
  | inner _ _ hi ih => simp [ih, (SelectedWord.of_isInner hi).feMade]
  | subroutine _ _ hi ih₁ ih₂ =>
    have fixed : Instr.subroutine.feMade ∧ Instr.saveToContext.feMade ∧ Instr.ret.feMade := ⟨rfl, rfl, rfl⟩
    simp [ih₁, ih₂, fixed, (SelectedWord.of_isCombine hi).feMade]

/-- A production closes every scope it opens, and nests at most as deep as its step (R79, R194). -/
theorem scopes_closed (h : Produces n d is) : ∀ o, o + n ≤ 4 → scopesAfter o is = some o := by
  induction h with
  | final _ hi => exact fun o _ => (SelectedWord.of_isFinal hi).scopesAfter_cons o []
  | inner _ _ hi ih =>
    intro o ho
    rw [scopesAfter_append_of_closed (ih o (by omega))]
    exact (SelectedWord.of_isInner hi).scopesAfter_cons o []
  | @subroutine n _ _ is js i _ _ hi ih₁ ih₂ =>
    intro o ho
    calc scopesAfter o (.subroutine :: (is ++ .saveToContext :: (js ++ [i, .ret])))
        = scopesAfter (o + 1) (is ++ .saveToContext :: (js ++ [i, .ret])) := scopesAfter_subroutine (by omega) _
      _ = scopesAfter (o + 1) (.saveToContext :: (js ++ [i, .ret])) :=
        scopesAfter_append_of_closed (ih₁ _ (by omega)) _
      _ = scopesAfter (o + 1) (js ++ [i, .ret]) := scopesAfter_of_ne (by decide) (by decide) _ _
      _ = scopesAfter (o + 1) [i, .ret] := scopesAfter_append_of_closed (ih₂ _ (by omega)) _
      _ = scopesAfter (o + 1) [.ret] := (SelectedWord.of_isCombine hi).scopesAfter_cons _ _
      _ = some o := scopesAfter_ret o []

/-- The words of the outermost production with the halting RETURN are a program of FE's shape (R79, R196). -/
theorem programWellFormed (h : Produces n d is) (hn : n ≤ 4) : programWellFormed (is ++ [.ret]) = true := by
  simp [Sys2Proof.programWellFormed, h.all_feMade, h.scopes_closed 0 (by omega), Instr.feMade]

theorem length_le (h : Produces n d is) (hn : n ≤ 4) : is.length ≤ 76 :=
  h.length_le_longest.trans ((show ∀ m < 5, longest m ≤ 76 by decide) n (by omega))

theorem draws_le (h : Produces n d is) (hn : n ≤ 4) : d ≤ 77 :=
  h.draws_le_mostDraws.trans ((show ∀ m < 5, mostDraws m ≤ 77 by decide) n (by omega))

end Produces

/-! ## A completed attempt -/

theorem openAttempt_draws {s t : State} (h : openAttempt s = .ok t) : t.draws = s.draws := by
  dsimp only [openAttempt] at h
  split at h <;>
  · obtain ⟨rfl, -⟩ := charge_eq_ok h
    rfl

/-- The close of an attempt that the budget admits: the halting RETURN and the framing charge of 5 (R196). -/
theorem closeAttempt_eq_ok {s t : State} (h : closeAttempt s = .ok t) :
    t.buf = s.buf ++ [encode .ret] ∧ t.draws = s.draws ∧
      s.cost + opCost s.cfg.costs .ret + 5 ≤ s.cfg.maxCost := by
  obtain ⟨u, hu, ⟨⟩⟩ := Emit.andThen_eq_ok h
  obtain ⟨v, hv, hu⟩ := Emit.andThen_eq_ok hu
  obtain rfl := append_eq_ok hv
  obtain ⟨rfl, hc⟩ := charge_eq_ok hu
  exact ⟨rfl, rfl, hc⟩

theorem programCost_map_encode (c : OpenCosts) (is : List Instr) :
    programCost c (is.map encode) = instrCost c is := by
  simp [programCost, instrCost, Function.comp_def]

/-- A completed attempt leaves the words of the outermost production and the halting RETURN, and its charges
with both framing costs are within the budget (R183, R196, R197). -/
theorem emitAttempt_produces {s t : State} (h : emitAttempt s = .ok t) :
    ∃ d is, Produces (s.rounds - 1) d is ∧ t.buf = (is ++ [Instr.ret]).map encode ∧ t.draws = s.draws + d ∧
      14 + programCost s.cfg.costs t.buf ≤ s.cfg.maxCost := by
  obtain ⟨v, hv, hclose⟩ := Emit.andThen_eq_ok h
  obtain ⟨u, hopen, hv⟩ := Emit.andThen_eq_ok hv
  obtain ⟨-, hbuf, hcost, -⟩ := openAttempt_eq_ok hopen
  have hcfg : u.cfg = s.cfg := by
    simpa only [hopen, Emit.state] using (openAttempt_frame s).keeps.cfg
  have made := emitProduction_produces (s.rounds - 1) .subroutine u
  rw [hv] at made
  obtain ⟨d, is, rfl, -, his⟩ := made
  obtain ⟨hbuf', hdraws, hmax⟩ := closeAttempt_eq_ok hclose
  have hwords : t.buf = (is ++ [Instr.ret]).map encode := by simpa [hbuf] using hbuf'
  refine ⟨d, is, his, hwords, by simpa [openAttempt_draws hopen] using hdraws, ?_⟩
  rw [hwords, programCost_map_encode, instrCost_append, instrCost_singleton]
  simp only [hcost, hcfg] at hmax
  omega

/-- Settles O37: the words come from the grammar, whose productions close their scopes and keep to the
recurrences of R205, and their cost is what the attempt charged. -/
theorem completedAttemptsAreWellFormedAndWithinBudget :
    Obligations.CompletedAttemptsAreWellFormedAndWithinBudget := by
  intro s t _ hr5 h
  obtain ⟨d, is, his, hbuf, hdraws, hcost⟩ := emitAttempt_produces h
  have hn : s.rounds - 1 ≤ 4 := by omega
  have hpos := his.one_le_length
  have hlen := his.length_le hn
  have hd := his.draws_le hn
  refine ⟨is ++ [.ret], hbuf, his.programWellFormed hn, ?_, ?_, hcost, by omega⟩ <;>
  · rw [List.length_append, List.length_singleton]
    omega

end Sys2Proof.Machine
end

section
/-! The generators: the seed generator's mix, the stream's rotations and update, and the all-zero stream state
that no seed gives. -/

namespace Sys2Proof.Machine

/-! ## The pieces of the generators -/

theorem trunc32_toNat (d : DWord) : (trunc32 d).toNat = d.toNat % 2 ^ 32 :=
  BitVec.toNat_setWidth 32 d

/-- R11: the two shifts of `rotl_64` are a true rotation. -/
theorem rotl64_eq_rotateLeft (v : DWord) {k : Nat} (hk : k < 64) : rotl64 v k = v.rotateLeft k :=
  (BitVec.rotateLeft_eq_rotateLeftAux_of_lt hk).symm

theorem rotl64_eq_zero_iff {v : DWord} {k : Nat} (hk : k < 64) : rotl64 v k = 0 ↔ v = 0 := by
  refine ⟨fun h => BitVec.eq_of_getLsbD_eq fun i hi => ?_, by rintro rfl; simp [rotl64]⟩
  obtain ⟨hleft, hright⟩ := BitVec.or_eq_zero_iff.mp h
  by_cases hik : i + k < 64
  · simpa [hik, ← BitVec.getLsbD_eq_getElem] using congrArg (·.getLsbD (i + k)) hleft
  · simpa [show 64 - k + (i + k - 64) = i by omega] using congrArg (·.getLsbD (i + k - 64)) hright

/-- An xor-shift to the right loses nothing: only 0 equals its own shift. -/
theorem xorShift_eq_zero_iff {v : DWord} {k : Nat} (hk : k ≠ 0) : v ^^^ (v >>> k) = 0 ↔ v = 0 := by
  have shifted : v = v >>> k ↔ v.toNat / 2 ^ k = v.toNat := by
    rw [← BitVec.toNat_inj, BitVec.toNat_ushiftRight, Nat.shiftRight_eq_div_pow, eq_comm]
  refine BitVec.xor_eq_zero_iff.trans ?_
  rw [shifted, Nat.div_eq_self, ← BitVec.toNat_inj]
  simp [hk]

/-- A round of SG's mix, an xor-shift and a product by an invertible constant, loses nothing either. -/
theorem mul_xorShift_eq_zero_iff {c v : DWord} {k : Nat} (hc : IsUnit c) (hk : k ≠ 0) :
    c * (v ^^^ (v >>> k)) = 0 ↔ v = 0 :=
  hc.mul_right_eq_zero.trans (xorShift_eq_zero_iff hk)

/-- The two multipliers of SG are odd, so they have inverses modulo 2^64. -/
theorem isUnit_sgMultipliers :
    IsUnit (0xBF58476D1CE4E5B9 : DWord) ∧ IsUnit (0x94D049BB133111EB : DWord) :=
  ⟨.of_mul_eq_one 0x96DE1B173F119089 (by decide), .of_mul_eq_one 0x319642B2D24D8EC3 (by decide)⟩

/-- Each round of SG's mix can be undone, so only 0 is mixed to 0 (R90). -/
theorem sgMix_eq_zero_iff (sm : DWord) : sgMix sm = 0 ↔ sm = 0 := by
  obtain ⟨first, second⟩ := isUnit_sgMultipliers
  calc sgMix sm = 0
      ↔ (0x94D049BB133111EB : DWord) * _ = 0 := xorShift_eq_zero_iff (k := 31) (by decide)
    _ ↔ (0xBF58476D1CE4E5B9 : DWord) * _ = 0 := mul_xorShift_eq_zero_iff (k := 27) second (by decide)
    _ ↔ sm = 0 := mul_xorShift_eq_zero_iff (k := 30) first (by decide)

/-- Two states of SG in a row are never both 0, so neither are the two outputs that seed XG (R91, R97). -/
theorem seedGenerators_ne_zero (s : State) (x : DWord) :
    ¬ ((s.seedGenerators x).s0 = 0 ∧ (s.seedGenerators x).s1 = 0) := by
  rw [State.seedGenerators_s0, State.seedGenerators_s1, sgMix_eq_zero_iff, sgMix_eq_zero_iff]
  rintro ⟨first, second⟩
  rw [first] at second
  exact absurd second (by decide)

/-- The update shared by the variants has no way into the all-zero state (R96): the rotated half gives
`s1 = s0`, and the other half is then a rotation of `s0`. -/
theorem eq_zero_of_xgUpdate_eq_zero {a b c : Nat} (ha : a < 64) (hc : c < 64) {x : DWord × DWord}
    (h : xgUpdate a b c x = (0, 0)) : x = (0, 0) := by
  obtain ⟨s0, s1⟩ := x
  obtain ⟨h0, h1⟩ := Prod.mk.inj h
  have ht : s1 ^^^ s0 = 0 := (rotl64_eq_zero_iff hc).mp h1
  have hs0 : s0 = 0 := (rotl64_eq_zero_iff ha).mp (by simpa [ht] using h0)
  have hs1 : s1 = 0 := (BitVec.xor_eq_zero_iff.mp ht).trans hs0
  rw [hs0, hs1]

theorem eq_zero_of_xgAdvance_eq_zero {v : Variant} {x : DWord × DWord} (h : xgAdvance v x = (0, 0)) :
    x = (0, 0) := by
  cases v with
  | pp => exact eq_zero_of_xgUpdate_eq_zero (by decide) (by decide) h
  | ss => exact eq_zero_of_xgUpdate_eq_zero (by decide) (by decide) h

theorem xgNext_zero (v : Variant) : xgNext v (0, 0) = (0, (0, 0)) := by
  cases v with
  | pp => decide
  | ss => decide

/-! ## The obligations -/

/-- Settles O29: the update is invertible at zero, and SG's mix at two successive states is not zero twice. -/
theorem streamIsNeverSeededWithZero : Obligations.StreamIsNeverSeededWithZero :=
  ⟨xgNext_zero, fun _ _ => eq_zero_of_xgAdvance_eq_zero, fun s => seedGenerators_ne_zero s (slotSeed s.slot)⟩

/-- Settles O27: the two intermediate words are the products of the mix. -/
theorem seedGeneratorMixesTheAdvancedState : Obligations.SeedGeneratorMixesTheAdvancedState := fun _ =>
  ⟨_, _, BitVec.toNat_add _ _, BitVec.toNat_mul _ _, BitVec.toNat_mul _ _, rfl⟩

/-- Settles O28: the shifts of `rotl_64` are rotations, and a draw keeps the low half of the output. -/
theorem streamGeneratorOutputsThenUpdates : Obligations.StreamGeneratorOutputsThenUpdates := by
  refine ⟨fun s0 s1 => ?_, fun s0 s1 => ?_, fun s => ⟨trunc32_toNat _, rfl, rfl⟩⟩
  · simp [xgNext, xgOutput, xgAdvance, xgUpdate, rotl64_eq_rotateLeft]
  · simp [xgNext, xgOutput, xgAdvance, xgUpdate, rotl64_eq_rotateLeft]

end Sys2Proof.Machine
end

section
/-! The loads, and what an instruction's encoding says of the decoder. -/

namespace Sys2Proof.Machine

/-! ## The encodings -/

/-- The decoder looks at a word's two fields only, so the instruction they spell is what it answers (R71, R72). -/
theorem decode_of_spelledBy {w : IWord} {i : Instr} (h : SpelledBy w i) : decode w = .instr i := by
  obtain ⟨hop, himm⟩ := h
  cases i <;>
  · simp only [opcode, immediate?, Option.some.injEq, forall_eq'] at hop himm
    simp [decode, ← hop, himm]

/-- Format `OPI` (R73): the immediate is the field as it stands. -/
theorem encodedAs_of_immediate {op : BitVec 8} {make : Word → Instr} (hop : ∀ imm, opcode (make imm) = op)
    (himm : ∀ imm, immediate? (make imm) = some imm) : EncodedAs op make := by
  intro imm
  have canonical : encode (make imm) = op ++ imm := by rw [encode, hop, himm, Option.getD_some]
  exact canonical ▸ decode_encode (make imm)

/-- Format `OP` (R74): the field is ignored. -/
theorem encodedAs_const {i : Instr} (himm : immediate? i = none) : EncodedAs (opcode i) fun _ => i :=
  fun imm => decode_of_spelledBy
    ⟨(opField_append (opcode i) imm).symm, fun _ h => nomatch himm.symm.trans h⟩

/-! ## Reading the seed block -/

theorem SeedBlock.read_of_lt {m : SeedBlock} {a : Nat} (h : a < m.len) : ∃ w, m.read a = some w :=
  Option.isSome_iff_exists.mp ((m.read_isSome a).mpr h)

theorem SeedBlock.read_of_ge {m : SeedBlock} {a : Nat} (h : m.len ≤ a) : m.read a = none :=
  Option.not_isSome_iff_eq_none.mp (mt (m.read_isSome a).mp h.not_gt)

/-- The memory access of the two buffer loads (R52): the word below the block's length, or the fault with the
presented address. -/
theorem loadWord_spec (a : Word) (s : State) :
    (a.toNat < s.seed.len → ∃ w, s.seed.read a.toNat = some w ∧
      loadWord a s = .next { s with acc := w, pc := s.pc + 1 }) ∧
    (s.seed.len ≤ a.toNat → loadWord a s = .next (s.takeFault (.outOfRangeBufferAccess s.slot s.pc a))) := by
  constructor
  · intro h
    obtain ⟨w, hw⟩ := SeedBlock.read_of_lt h
    exact ⟨w, hw, loadWord_some hw⟩
  · exact fun h => loadWord_none (SeedBlock.read_of_ge h)

/-! ## The obligations -/

/-- Settles O5: both loads write through `withAcc`. -/
theorem loadArgAndLoadInputWriteTheAccumulator : Obligations.LoadArgAndLoadInputWriteTheAccumulator :=
  ⟨⟨encodedAs_of_immediate (fun _ => rfl) fun _ => rfl, fun _ _ => rfl⟩,
    ⟨encodedAs_const (i := .loadInput) rfl, fun _ => rfl⟩⟩

/-- Settles O6: the memory access at the immediate as it stands. -/
theorem loadFromBufferReadsItsIndexOrFaults : Obligations.LoadFromBufferReadsItsIndexOrFaults :=
  ⟨encodedAs_of_immediate (fun _ => rfl) fun _ => rfl, fun imm s => loadWord_spec imm s⟩

/-- Settles O7: the memory access at the old accumulator masked by the immediate. -/
theorem loadFromBufferIndirectMasksTheAccumulator : Obligations.LoadFromBufferIndirectMasksTheAccumulator :=
  ⟨encodedAs_of_immediate (fun _ => rfl) fun _ => rfl, fun imm s => loadWord_spec (s.acc &&& imm) s⟩

end Sys2Proof.Machine
end

section
/-! The accumulator's arithmetic and logic: each operation on words is an operation on unsigned values modulo
2^32, or an operation on bits. -/

namespace Sys2Proof.Machine

/-! ## Words as numbers -/

/-- The difference modulo 2^32 (R123). The subtrahend is below 2^32, so nothing is cut off at zero. -/
theorem sub_eq_ofNat (a b : Word) : a - b = BitVec.ofNat 32 (2 ^ 32 + a.toNat - b.toNat) := by
  have hb : b.toNat ≤ 2 ^ 32 := b.isLt.le
  calc a - b = BitVec.ofNat 32 (2 ^ 32 - b.toNat + a.toNat) := BitVec.sub_def a b
    _ = BitVec.ofNat 32 (2 ^ 32 + a.toNat - b.toNat) := by rw [Nat.sub_add_comm hb]

/-- The complement needs no reduction: it is itself a 32-bit number (R126). -/
theorem not_eq_ofNat (a : Word) : ~~~a = BitVec.ofNat 32 (2 ^ 32 - 1 - a.toNat) := by
  rw [← BitVec.toNat_not, BitVec.ofNat_toNat, BitVec.setWidth_eq]

/-- The negation modulo 2^32, where 0 is its own negation (R128). -/
theorem neg_eq_ofNat (a : Word) : -a = BitVec.ofNat 32 (2 ^ 32 - a.toNat) := by
  rw [← BitVec.toNat_inj, BitVec.toNat_neg, BitVec.toNat_ofNat]

/-! ## The shuffle's two parts -/

/-- The selected bits move down (R129): halving. -/
theorem toNat_shiftDown (a : Word) : (a >>> 1).toNat = a.toNat / 2 := by
  rw [BitVec.toNat_ushiftRight, Nat.shiftRight_eq_div_pow, pow_one]

/-- The other bits move up (R129): doubling, with bit 31 lost. -/
theorem toNat_shiftUp (a : Word) : (a <<< 1).toNat = a.toNat * 2 % 2 ^ 32 := by
  rw [BitVec.toNat_shiftLeft, Nat.shiftLeft_eq, pow_one]

/-! ## The instructions -/

/-- An instruction that writes a word to `acc` may have the word spelled in another way. -/
theorem exec_of_withAcc {i : Instr} {s : State} {v w : Word} (h : exec i s = .next (s.withAcc v)) (hv : v = w) :
    exec i s = .next { s with acc := w, pc := s.pc + 1 } :=
  hv ▸ h

/-! ## The obligations -/

/-- Settles O8: addition of words is addition of their values by definition; the differences go through
`sub_eq_ofNat`. -/
theorem addAndSubtractWrapModulo : Obligations.AddAndSubtractWrapModulo := by
  refine ⟨⟨encodedAs_of_immediate (fun _ => rfl) fun _ => rfl, fun imm s => ?add⟩,
    ⟨encodedAs_of_immediate (fun _ => rfl) fun _ => rfl, fun imm s => ?sub⟩,
    ⟨encodedAs_const (i := .addOne) rfl, fun s => ?addOne⟩,
    ⟨encodedAs_const (i := .subtractOne) rfl, fun s => ?subOne⟩⟩
  case add => exact exec_of_withAcc rfl (BitVec.add_def s.acc imm)
  case sub => exact exec_of_withAcc rfl (sub_eq_ofNat s.acc imm)
  case addOne => exact exec_of_withAcc rfl (BitVec.add_def s.acc 1)
  case subOne => exact exec_of_withAcc rfl (BitVec.sub_def s.acc 1)

/-- Settles O9: complement and negation of a word are those of its value in 32 bits. -/
theorem notAndNegateAreTakenInThirtyTwoBits : Obligations.NotAndNegateAreTakenInThirtyTwoBits := by
  refine ⟨⟨encodedAs_const (i := .bitwiseNot) rfl, fun s => ?not⟩,
    ⟨encodedAs_const (i := .negate) rfl, fun s => ?negate⟩⟩
  case not => exact exec_of_withAcc rfl (not_eq_ofNat s.acc)
  case negate => exact exec_of_withAcc rfl (neg_eq_ofNat s.acc)

/-- Settles O10: the two parts of the shuffle are the two shifts of `shuffleBits`. -/
theorem xorIsBitwiseAndShuffleJoinsTwoShifts : Obligations.XorIsBitwiseAndShuffleJoinsTwoShifts := by
  refine ⟨⟨encodedAs_of_immediate (fun _ => rfl) fun _ => rfl, fun imm s => ?xor⟩,
    ⟨encodedAs_of_immediate (fun _ => rfl) fun _ => rfl, fun imm s => ?shuffle⟩⟩
  case xor =>
    refine ⟨s.acc ^^^ imm, rfl, fun j _ => ?_⟩
    rw [BitVec.getLsbD_xor, Bool.bne_eq_xor]
  case shuffle => exact ⟨(s.acc &&& imm) >>> 1, (s.acc &&& ~~~imm) <<< 1, rfl, toNat_shiftDown _, toNat_shiftUp _⟩

end Sys2Proof.Machine
end

section
/-! The context-slot instructions: what each makes of the top slot, and the values they write as numbers
modulo 2^32. -/

namespace Sys2Proof.Machine

/-! ## Words as numbers -/

/-- The low half of the product (R145). -/
theorem mul_eq_ofNat (a b : Word) : a * b = BitVec.ofNat 32 (a.toNat * b.toNat) := by
  rw [← BitVec.toNat_inj, BitVec.toNat_mul, BitVec.toNat_ofNat]

/-- A left shift multiplies by a power of two; what leaves at the top is the multiple of 2^32 (R146). -/
theorem shiftLeft_eq_ofNat (a : Word) (k : Nat) : a <<< k = BitVec.ofNat 32 (a.toNat * 2 ^ k) := by
  rw [← BitVec.toNat_inj, BitVec.toNat_shiftLeft, BitVec.toNat_ofNat, Nat.shiftLeft_eq]

/-- A right shift divides by a power of two, and the quotient needs no reduction: zeros enter (R147). -/
theorem ushiftRight_eq_ofNat (a : Word) (k : Nat) : a >>> k = BitVec.ofNat 32 (a.toNat / 2 ^ k) := by
  rw [← Nat.shiftRight_eq_div_pow, ← BitVec.toNat_ushiftRight, BitVec.ofNat_toNat, BitVec.setWidth_eq]

/-- The mask `0xF` keeps the residue modulo 16 (R140). -/
theorem shiftCount_eq_mod (top : Word) : shiftCount top = top.toNat % 16 := by
  calc shiftCount top = top.toNat &&& 15 := BitVec.toNat_and top 0xF
    _ = top.toNat % 16 := Nat.and_two_pow_sub_one_eq_mod top.toNat 4

/-! ## The instructions -/

theorem execSaveToContext_cons {s : State} {top : Word} {below : List Word} (h : s.ctx = top :: below) :
    execSaveToContext s = .next { s with ctx := s.acc :: below, pc := s.pc + 1 } := by
  simp [execSaveToContext, State.withTop, h]

/-- An instruction that combines `acc` with the top slot may have the word it writes spelled in another way. -/
theorem exec_of_combineTop {i : Instr} {s : State} {top w : Word} {below : List Word} (f : Word → Word → Word)
    (h : exec i s = combineTop f s) (hc : s.ctx = top :: below) (hw : f s.acc top = w) :
    exec i s = .next { s with acc := w, pc := s.pc + 1 } :=
  exec_of_withAcc (h.trans (combineTop_cons hc)) hw

/-! ## The obligations -/

/-- Settles O11: a top slot is there, so the instruction writes it. -/
theorem saveToContextWritesTheTopSlotOnly : Obligations.SaveToContextWritesTheTopSlotOnly :=
  ⟨encodedAs_const (i := .saveToContext) rfl, fun _ _ _ hc => execSaveToContext_cons hc⟩

/-- Settles O12: the four operations on words are those on their values; `SUBTRACT_FROM_CONTEXT` is the
difference with its operands exchanged. -/
theorem contextArithmeticWrapsModulo : Obligations.ContextArithmeticWrapsModulo := by
  intro s top below hc
  refine ⟨⟨encodedAs_const (i := .addContext) rfl, ?add⟩,
    ⟨encodedAs_const (i := .subtractContext) rfl, ?sub⟩,
    ⟨encodedAs_const (i := .subtractFromContext) rfl, ?subFrom⟩,
    ⟨encodedAs_const (i := .multiplyContext) rfl, ?mul⟩⟩
  case add => exact exec_of_combineTop (fun acc top => acc + top) rfl hc (BitVec.add_def s.acc top)
  case sub => exact exec_of_combineTop (fun acc top => acc - top) rfl hc (sub_eq_ofNat s.acc top)
  case subFrom => exact exec_of_combineTop (fun acc top => top - acc) rfl hc (sub_eq_ofNat top s.acc)
  case mul => exact exec_of_combineTop (fun acc top => acc * top) rfl hc (mul_eq_ofNat s.acc top)

/-- Settles O13: the count is the slot modulo 16, and a shift by it is a product or a quotient by the power of
two. -/
theorem contextShiftsUseTheLowFourBits : Obligations.ContextShiftsUseTheLowFourBits := by
  intro s top below hc
  rw [← shiftCount_eq_mod top]
  refine ⟨⟨encodedAs_const (i := .shlContext) rfl, ?shl⟩, ⟨encodedAs_const (i := .shrContext) rfl, ?shr⟩⟩
  case shl =>
    exact exec_of_combineTop (fun acc top => acc <<< shiftCount top) rfl hc
      (shiftLeft_eq_ofNat s.acc (shiftCount top))
  case shr =>
    exact exec_of_combineTop (fun acc top => acc >>> shiftCount top) rfl hc
      (ushiftRight_eq_ofNat s.acc (shiftCount top))

end Sys2Proof.Machine
end

section
/-! SUBROUTINE and RETURN, and the two ends of a run: how it starts, what ends it, and which words it never
reaches. -/

namespace Sys2Proof.Machine

/-! ## The context stack -/

/-- Below the bound SUBROUTINE pushes; `sp` is the length of the stack (R161). -/
theorem execSubroutine_of_room {s : State} (h : s.cfg.ctxDepth ≠ some s.sp) :
    execSubroutine s = .next s.pushSlot :=
  if_neg h

/-- At the bound SUBROUTINE overflows (R161, R244). -/
theorem execSubroutine_of_full {s : State} (h : s.cfg.ctxDepth = some s.sp) :
    execSubroutine s = .next (s.takeFault (.contextOverflow s.slot s.pc)) :=
  if_pos h

/-- RETURN with slots left below the top (R162). -/
theorem execRet_cons_cons {s : State} {top next : Word} {below : List Word} (h : s.ctx = top :: next :: below) :
    execRet s = .next { s with ctx := next :: below, pc := s.pc + 1 } := by
  simp [execRet, State.popSlot, h]

/-- RETURN from the last slot: `pc` stays at the halting word (R162, R163). -/
theorem execRet_singleton {s : State} {top : Word} (h : s.ctx = [top]) :
    execRet s = .next { s with ctx := [] } := by
  simp [execRet, State.popSlot, h]

/-! ## The end of a run -/

/-- The packed result is the two words side by side (R226). -/
theorem packResult_eq_append (hi lo : Word) : packResult hi lo = hi ++ lo := by
  rw [BitVec.append_def, BitVec.shiftLeftZeroExtend_eq, BitVec.setWidth'_eq, packResult]

theorem packResult_toNat (hi lo : Word) : (packResult hi lo).toNat = hi.toNat * 2 ^ 32 + lo.toNat := by
  rw [packResult_eq_append, BitVec.toNat_append, ← Nat.shiftLeft_add_eq_or_of_lt lo.isLt, Nat.shiftLeft_eq]

/-- Where a run stops: with no live context slot or no word at `pc`, its step ends it (R163, R164). -/
theorem runStep_of_ended {s : State} {p : Program} (half : RunHalf) (hp : s.program? = some p)
    (hend : s.ctx = [] ∨ p.length ≤ s.pc) : runStep half s = .next (finishRun half s) := by
  simp only [runStep, hp]
  obtain hctx | hpc := hend
  · exact if_pos (congrArg List.length hctx)
  · split
    · rfl
    · rw [List.getElem?_eq_none hpc]

theorem step_of_ended {s : State} {p : Program} {half : RunHalf} (hphase : s.phase = .running half)
    (hp : s.program? = some p) (hend : s.ctx = [] ∨ p.length ≤ s.pc) : step s = .next (finishRun half s) :=
  (step_running hphase).trans (runStep_of_ended half hp hend)

/-! ## A pass over words -/

/-- A pass goes on with its rest only from a live state of the run (R163, R165). -/
theorem runWords_cons_of_next {w : IWord} {s t : State} (h : execWord w s = .next t) (ws : List IWord) :
    runWords (w :: ws) s = if t.phase = .idle ∨ t.sp = 0 then t else runWords ws t := by
  rw [runWords, h]

/-- A word that stops the model ends the pass where it stands (log entry 10). -/
theorem runWords_cons_of_stop {w : IWord} {s : State} (h : ∀ t, execWord w s ≠ .next t) (ws : List IWord) :
    runWords (w :: ws) s = s := by
  rw [runWords]
  split
  · exact absurd ‹_› (h _)
  · rfl

/-! ## The start of a run -/

/-- The folded input is bits 38:7 of the request, as a number (R224). -/
theorem trunc32_shiftRight_seven_toNat (v : DWord) : (trunc32 (v >>> 7)).toNat = v.toNat / 2 ^ 7 % 2 ^ 32 := by
  rw [trunc32_toNat, BitVec.toNat_ushiftRight, Nat.shiftRight_eq_div_pow]

theorem runInput_low_toNat (v : DWord) : (runInput .low v).toNat = v.toNat / 2 ^ 7 % 2 ^ 32 :=
  trunc32_shiftRight_seven_toNat v

theorem runInput_high_toNat (v : DWord) : (runInput .high v).toNat = 2 ^ 32 - 1 - v.toNat / 2 ^ 7 % 2 ^ 32 := by
  rw [runInput, BitVec.toNat_not, trunc32_shiftRight_seven_toNat]

theorem step_runStart {half : RunHalf} {s : State} (h : s.phase = .runStart half) :
    step s = .next (startRun half s) := by
  rw [step, h]

/-- A written `ACC_INIT` is where the accumulator starts (R20, R165). -/
theorem startRun_acc {s : State} {a : Word} (half : RunHalf) (h : s.cfg.accInit = some a) :
    (startRun half s).acc = a := by
  simp only [startRun, h]

/-! ## The obligations -/

/-- Settles O19: the step of a run that is over is `finishRun`, whose answer packs the two results. -/
theorem runEndsAtHaltOrEndOfSequence : Obligations.RunEndsAtHaltOrEndOfSequence := by
  intro s p hp hend
  constructor
  · exact fun hlow => step_of_ended hlow hp hend
  · exact fun hhigh =>
      ⟨packResult s.acc s.resultLo, packResult_toNat s.acc s.resultLo, step_of_ended hhigh hp hend⟩

/-- Settles O15: popping the last slot leaves an empty stack, and O19 says how the run then ends. -/
theorem returnPopsASlotOrHaltsTheRun : Obligations.ReturnPopsASlotOrHaltsTheRun := by
  refine ⟨encodedAs_const (i := .ret) rfl, fun s top next below hc => ?pops,
    fun s top p hc hp => ⟨?halts, ?ends⟩⟩
  case pops => exact execRet_cons_cons hc
  case halts => exact execRet_singleton hc
  case ends => exact runEndsAtHaltOrEndOfSequence { s with ctx := [] } p hp (.inl rfl)

/-- Settles O20, by induction on the words before the halt: each word ends both passes in one state, or hands
both the same live state. The empty pass halts nothing. -/
theorem wordsAfterTheHaltNeverRun : Obligations.WordsAfterTheHaltNeverRun := by
  intro ws extra
  induction ws with
  | nil => exact fun s hlive hhalt => absurd hhalt hlive
  | cons w ws ih =>
    intro s hlive hhalt
    rw [List.cons_append]
    by_cases hnext : ∃ t, execWord w s = .next t
    · obtain ⟨t, ht⟩ := hnext
      rw [runWords_cons_of_next ht] at hhalt ⊢
      rw [runWords_cons_of_next ht]
      split_ifs at hhalt ⊢ with hover
      · rfl
      · exact ih t (fun hsp => hover (.inr hsp)) hhalt
    · have hstop := not_exists.mp hnext
      rw [runWords_cons_of_stop hstop, runWords_cons_of_stop hstop]

/-- Settles O14. -/
theorem subroutinePushesAZeroSlotOrOverflows : Obligations.SubroutinePushesAZeroSlotOrOverflows :=
  ⟨encodedAs_const (i := .subroutine) rfl, fun _ => ⟨execSubroutine_of_room, execSubroutine_of_full⟩⟩

/-- Settles O45: the state is `startRun`'s, whose form gives every register but `acc`, and `ACC_INIT` gives
that one. -/
theorem runsStartWithTheFoldedInputOrItsComplement : Obligations.RunsStartWithTheFoldedInputOrItsComplement := by
  intro s half hphase
  have hacc : ∀ a, s.cfg.accInit = some a → (startRun half s).acc = a := fun _ => startRun_acc half
  obtain ⟨acc, freeCount, e⟩ := startRun_form half s
  rw [e] at hacc
  refine ⟨_, (step_runStart hphase).trans (congrArg _ e), rfl, rfl, rfl, ?input, hacc, rfl, rfl, rfl, rfl, rfl⟩
  case input =>
    cases half with
    | low => exact runInput_low_toNat s.value
    | high => exact runInput_high_toNat s.value

end Sys2Proof.Machine
end

section
/-! The draws of a fill and what they select: the slot seed as a number, the lookup in the order table,
charges, appends, and the words the three phases append. -/

namespace Sys2Proof.Machine

/-! ## The slot seed -/

/-- The slot seed as a number: the complement of the slot number stands above the slot number (R222). -/
theorem slotSeed_toNat (k : Fin 128) : (slotSeed k).toNat = (2 ^ 32 - 1 - k.val) * 2 ^ 32 + k.val := by
  have hk : (BitVec.ofNat 32 k.val).toNat = k.val := Nat.mod_eq_of_lt (k.isLt.trans (by decide))
  calc (slotSeed k).toNat
      = (~~~(BitVec.ofNat 32 k.val)).toNat * 2 ^ 32 + (BitVec.ofNat 32 k.val).toNat := packResult_toNat _ _
    _ = (2 ^ 32 - 1 - k.val) * 2 ^ 32 + k.val := by rw [BitVec.toNat_not, hk]

theorem eq_slotSeed_of_toNat {s : State} {seed : DWord}
    (h : seed.toNat = (2 ^ 32 - 1 - s.value.toNat % 128) * 2 ^ 32 + s.value.toNat % 128) :
    seed = slotSeed s.slot :=
  BitVec.eq_of_toNat_eq (h.trans (slotSeed_toNat s.slot).symm)

theorem step_fillStart {s : State} (h : s.phase = .fillStart) : step s = .next (beginFill s) := by
  rw [step, h]

/-- Settles O26: the seed of the statement is the slot seed, and `beginFill` seeds with that. -/
theorem fillSeedsTheGeneratorsFromTheSlotNumber : Obligations.FillSeedsTheGeneratorsFromTheSlotNumber := by
  intro s seed hphase hseed
  obtain rfl := eq_slotSeed_of_toNat hseed
  exact ⟨beginFill s, step_fillStart hphase, rfl, rfl, rfl, rfl, rfl⟩

/-! ## The lookup -/

/-- The entries of the group of `m` entries at `base` (R185). -/
def orderGroup (order : Vector Word 17) (base m : Nat) : List Word := (order.toList.drop base).take m

theorem orderGroup_length {base m : Nat} (order : Vector Word 17) (h : base + m ≤ 17) :
    (orderGroup order base m).length = m := by
  simp only [orderGroup, List.length_take, List.length_drop, Vector.length_toList]
  omega

theorem orderGroup_getElem {order : Vector Word 17} {base m j : Nat}
    (h : j < (orderGroup order base m).length) :
    (orderGroup order base m)[j] = order.toList.getD (base + j) 0 := by
  have hj : base + j < order.toList.length := by
    simp only [orderGroup, List.length_take, List.length_drop] at h
    omega
  simp only [orderGroup, List.getElem_take, List.getElem_drop, List.getD_eq_getElem _ _ hj]

theorem lookup_eq_findIdx? (order : Vector Word 17) (base m r : Nat) :
    lookup order base m r = (orderGroup order base m).findIdx? fun e => e.toInt == (r : Int) := rfl

/-- Settles O30: the search for the first equal entry, read entry by entry. -/
theorem lookupIsTheFirstEqualEntry : Obligations.LookupIsTheFirstEqualEntry := by
  intro order base m r hbase
  have hlen := orderGroup_length order hbase
  constructor
  · intro k
    rw [lookup_eq_findIdx?, List.findIdx?_eq_some_iff_getElem]
    simp only [orderGroup_getElem, hlen, beq_iff_eq, exists_prop, ne_eq]
  · rw [lookup_eq_findIdx?, List.findIdx?_eq_none_iff, List.forall_mem_iff_forall_getElem]
    simp only [orderGroup_getElem, hlen, beq_eq_false_iff_ne]

/-! ## Charges and appends -/

theorem charge_of_le {c : Nat} {s : State} (h : s.cost + c ≤ s.cfg.maxCost) :
    charge c s = .ok { s with cost := s.cost + c } :=
  if_neg h.not_gt

theorem charge_of_gt {c : Nat} {s : State} (h : s.cfg.maxCost < s.cost + c) :
    charge c s = .abandoned { s with cost := s.cost + c } :=
  if_pos h

/-- Settles O31: the two sides of the budget test, and `append` as a charge. -/
theorem appendChargesAndTheBudgetIsInclusive : Obligations.AppendChargesAndTheBudgetIsInclusive := by
  refine ⟨fun c s => ⟨charge_of_le, fun h => ⟨_, charge_of_gt h, fun k => ?_⟩⟩, fun _ _ => rfl⟩
  rw [charge_of_gt h, Emit.andThen]

/-- Settles O32: one row of the table for each opcode. -/
theorem costTableHasElevenPricesAndTenParameters : Obligations.CostTableHasElevenPricesAndTenParameters :=
  fun _ _ => by simp only [opCost, and_self]

/-! ## The selected words -/

/-- A selection that goes on found an entry and went on with its index (R185). -/
theorem select_eq_ok {base m : Nat} {choice : Nat → State → Emit} {s t : State}
    (h : select base m choice s = .ok t) :
    ∃ k, lookup s.cfg.order base m (s.draw.1.toNat % m) = some k ∧ choice k s.draw.2 = .ok t := by
  dsimp only [select] at h
  split at h
  · exact ⟨_, ‹_›, h⟩
  · cases h

/-- The buffer after an append that goes on (R183). -/
theorem append_buf {i : Instr} {s t : State} (h : append i s = .ok t) : t.buf = s.buf ++ [encode i] := by
  rw [append_eq_ok h]

/-- The same, seen from before a draw. -/
theorem append_draw_buf {i : Instr} {s t : State} (h : append i s.draw.2 = .ok t) :
    t.buf = s.buf ++ [encode i] :=
  append_buf (s := s.draw.2) h

/-- Settles O33: each choice of the final phase is one append. -/
theorem finalPhaseAppendsTheSelectedLoad : Obligations.FinalPhaseAppendsTheSelectedLoad := by
  intro s t h
  obtain ⟨k, hk, hchoice⟩ := select_eq_ok h
  refine ⟨k, hk, ?_⟩
  rw [← State.draw_buf s]
  match k with
  | 0 | _ + 2 => exact append_draw_buf hchoice
  | 1 => exact append_buf hchoice

/-- A coin is even when its draw is an even number (R182). -/
theorem isEven_eq (d : Word) : isEven d = (d.toNat % 2 == 0) := by
  rw [isEven, BitVec.getLsbD, Nat.testBit_zero]
  obtain h | h := Nat.mod_two_eq_zero_or_one d.toNat <;> simp [h]

theorem addOrSubtract_of_add {s : State} (h : isEven s.draw.1 = s.cfg.addsubEvenIsAdd) :
    addOrSubtract s = append (.addArg s.draw.2.draw.1) s.draw.2.draw.2 :=
  if_pos h

theorem addOrSubtract_of_subtract {s : State} (h : isEven s.draw.1 ≠ s.cfg.addsubEvenIsAdd) :
    addOrSubtract s = append (.subtractArg s.draw.2.draw.1) s.draw.2.draw.2 :=
  if_neg h

/-- Choice 6 appends ADD_ARG or SUBTRACT_ARG by the parity of its first draw (R193). -/
theorem addOrSubtract_buf {s t : State} (h : addOrSubtract s = .ok t) :
    t.buf = s.buf ++ [encode (if (s.draw.1.toNat % 2 == 0) = s.cfg.addsubEvenIsAdd
      then .addArg s.draw.2.draw.1 else .subtractArg s.draw.2.draw.1)] := by
  rw [← isEven_eq, ← State.draw_buf s]
  by_cases hadd : isEven s.draw.1 = s.cfg.addsubEvenIsAdd
  · rw [if_pos hadd]
    exact append_draw_buf ((addOrSubtract_of_add hadd).symm.trans h)
  · rw [if_neg hadd]
    exact append_draw_buf ((addOrSubtract_of_subtract hadd).symm.trans h)

/-- Settles O34: each choice of the inner phase is one append; choice 6 is `addOrSubtract`. -/
theorem innerPhaseAppendsTheSelectedOperation : Obligations.InnerPhaseAppendsTheSelectedOperation := by
  intro s t h
  obtain ⟨k, hk, hchoice⟩ := select_eq_ok h
  refine ⟨k, hk, ?_⟩
  rw [← State.draw_buf s]
  match k with
  | 0 | 1 | 2 | 3 | 4 | _ + 7 => exact append_buf hchoice
  | 5 => exact append_draw_buf hchoice
  | 6 => exact addOrSubtract_buf hchoice

/-- Settles O35: each choice of the subroutine phase is one append, and that of RETURN follows. -/
theorem subroutinePhaseAppendsTheSelectedOperationAndReturn :
    Obligations.SubroutinePhaseAppendsTheSelectedOperationAndReturn := by
  intro s t h
  obtain ⟨u, hu, hret⟩ := Emit.andThen_eq_ok h
  obtain ⟨k, hk, hchoice⟩ := select_eq_ok hu
  refine ⟨k, hk, ?_⟩
  rw [append_buf hret, List.append_cons s.buf, List.append_left_inj, ← State.draw_buf s]
  match k with
  | 0 | 1 | 2 | 3 | 4 | _ + 5 => exact append_buf hchoice

end Sys2Proof.Machine
end

section
/-! The words of a production: how many there are, and the load before which only SUBROUTINE stands. -/

namespace Sys2Proof.Machine

/-- Settles O36: the words and draws of a production are those the grammar can make. -/
theorem productionsAreBoundedInWordsAndDraws : Obligations.ProductionsAreBoundedInWordsAndDraws := by
  intro k n s t h
  have made := emitProduction_produces n k s
  rw [h] at made
  obtain ⟨d, is, rfl, -, his⟩ := made
  have hlen : (is.map encode).length = is.length := List.length_map encode
  exact ⟨is.map encode, rfl, his.one_le_length.trans_eq hlen.symm, hlen.trans_le his.length_le_longest,
    Nat.add_le_add_left his.draws_le_mostDraws s.draws⟩

/-- The words up to the first production at step 1 are the SUBROUTINE words of the productions around it, and
that production appends a load (R187, R194). -/
theorem Produces.subroutines_then_load {n d : Nat} {is : List Instr} (h : Produces n d is) :
    ∃ m i rest, i.isFinal = true ∧ is = List.replicate m .subroutine ++ i :: rest := by
  induction h with
  | @final _ i _ hi => exact ⟨0, i, [], hi, rfl⟩
  | @inner _ _ _ _ last _ _ _ ih =>
    obtain ⟨m, i, rest, hi, rfl⟩ := ih
    exact ⟨m, i, rest ++ [last], hi, by simp⟩
  | @subroutine _ _ _ _ js last _ _ _ ih _ =>
    obtain ⟨m, i, rest, hi, rfl⟩ := ih
    exact ⟨m + 1, i, rest ++ .saveToContext :: (js ++ [last, .ret]), hi, by simp [List.replicate_succ]⟩

/-- Settles O38: the words of the attempt's one production begin that way. -/
theorem completedProgramsLoadBeforeTheyRead : Obligations.CompletedProgramsLoadBeforeTheyRead := by
  intro s t h
  obtain ⟨d, is, his, hbuf, -⟩ := emitAttempt_produces h
  obtain ⟨m, i, rest, hi, rfl⟩ := his.subroutines_then_load
  exact ⟨m, i, (rest ++ [Instr.ret]).map encode, hi, by simp [hbuf]⟩

end Sys2Proof.Machine
end

section
/-! Programs that load before they read: the accumulator a run starts with cannot be seen in its answers. -/

namespace Sys2Proof.Machine

/-! ## The words before the load, and the load -/

theorem execWord_encode (i : Instr) (s : State) : execWord (encode i) s = exec i s :=
  execWord_of_decode (decode_encode i) s

/-- The accumulator does not matter to what `i` makes of `s`, or a fault ends the run whatever it is. -/
def OverwritesAcc (i : Instr) (s : State) : Prop :=
  (∃ t, ∀ a, exec i { s with acc := a } = .next t) ∨
    ∃ f, ∀ a, exec i { s with acc := a } = .next (State.takeFault { s with acc := a } f)

/-- A final-phase load writes `acc` without reading it (R110 to R112, R187). -/
theorem overwritesAcc_of_isFinal {i : Instr} (h : i.isFinal = true) (s : State) : OverwritesAcc i s :=
  match i, h with
  | .loadArg imm, _ => .inl ⟨s.withAcc imm, fun _ => rfl⟩
  | .loadInput, _ => .inl ⟨s.withAcc s.inp, fun _ => rfl⟩
  | .loadFromBuffer imm, _ => by
    cases hr : s.seed.read imm.toNat with
    | some w => exact .inl ⟨s.withAcc w, fun a => loadWord_some (s := { s with acc := a }) hr⟩
    | none =>
      exact .inr ⟨.outOfRangeBufferAccess s.slot s.pc imm,
        fun a => loadWord_none (s := { s with acc := a }) hr⟩

/-- SUBROUTINE leaves `acc` alone (R160), with room for the slot or without. -/
theorem exec_subroutine_cases (s : State) :
    (∀ a, exec .subroutine { s with acc := a } = .next { s.pushSlot with acc := a }) ∨
      ∃ f, ∀ a, exec .subroutine { s with acc := a } = .next (State.takeFault { s with acc := a } f) := by
  by_cases hd : s.cfg.ctxDepth = some s.sp
  · exact .inr ⟨.contextOverflow s.slot s.pc, fun a => execSubroutine_of_full (s := { s with acc := a }) hd⟩
  · exact .inl fun a => execSubroutine_of_room (s := { s with acc := a }) hd

/-! ## Runs from two accumulators -/

/-- The ends of two runs that differ in the starting accumulator: alike but for the `acc` a fault leaves. -/
structure SameRun (t t' : State) : Prop where
  responses : t'.responses = t.responses
  phase : t'.phase = t.phase
  eq_of_live : t.phase ≠ .idle → t' = t

theorem SameRun.refl (t : State) : SameRun t t := ⟨rfl, rfl, fun _ => rfl⟩

/-- The word at which both runs fault ends both. -/
theorem runWords_of_fault {w : IWord} {s : State} {f : FaultRecord} (ws : List IWord)
    (h : execWord w s = .next (s.takeFault f)) : runWords (w :: ws) s = s.takeFault f := by
  rw [runWords_cons_of_next h, if_pos (.inl (State.takeFault_phase s f))]

theorem sameRun_of_fault {w : IWord} {s : State} {f : FaultRecord} (ws : List IWord)
    (h : ∀ a, execWord w { s with acc := a } = .next (State.takeFault { s with acc := a } f)) (a b : Word) :
    SameRun (runWords (w :: ws) { s with acc := b }) (runWords (w :: ws) { s with acc := a }) := by
  rw [runWords_of_fault ws (h a), runWords_of_fault ws (h b)]
  exact ⟨rfl, rfl, fun hlive => absurd rfl hlive⟩

/-- From the load on the two runs are one. -/
theorem sameRun_of_load {i : Instr} (hi : i.isFinal = true) (rest : Program) (s : State) (a b : Word) :
    SameRun (runWords (encode i :: rest) { s with acc := b })
      (runWords (encode i :: rest) { s with acc := a }) := by
  obtain ⟨t, ht⟩ | ⟨f, hf⟩ := overwritesAcc_of_isFinal hi s
  · rw [runWords_cons_of_next ((execWord_encode i _).trans (ht a)),
      runWords_cons_of_next ((execWord_encode i _).trans (ht b))]
    exact .refl _
  · exact sameRun_of_fault rest (fun c => (execWord_encode i _).trans (hf c)) a b

/-- Each SUBROUTINE before the load hands both runs on with a new slot, or ends both. -/
theorem sameRun_of_loads_first {i : Instr} (hi : i.isFinal = true) (rest : Program) (a b : Word) (n : Nat) :
    ∀ s : State, s.phase ≠ .idle →
      SameRun (runWords (List.replicate n (encode .subroutine) ++ encode i :: rest) { s with acc := b })
        (runWords (List.replicate n (encode .subroutine) ++ encode i :: rest) { s with acc := a }) := by
  induction n with
  | zero => exact fun s _ => sameRun_of_load hi rest s a b
  | succ n ih =>
    intro s hlive
    rw [List.replicate_succ, List.cons_append]
    obtain hpush | ⟨f, hf⟩ := exec_subroutine_cases s
    · have goesOn (ws : Program) (c : Word) : runWords (encode .subroutine :: ws) { s with acc := c } =
          runWords ws { s.pushSlot with acc := c } := by
        rw [runWords_cons_of_next ((execWord_encode .subroutine _).trans (hpush c)), if_neg]
        simp [State.sp, hlive]
      rw [goesOn, goesOn]
      exact ih s.pushSlot hlive
    · exact sameRun_of_fault _ (fun c => (execWord_encode .subroutine _).trans (hf c)) a b

/-- Settles O39: the run as it is starts from its own accumulator. -/
theorem startingAccumulatorCannotBeSeen : Obligations.StartingAccumulatorCannotBeSeen := by
  intro n i rest s a hi hlive
  have same := sameRun_of_loads_first hi rest a s.acc n s hlive
  exact ⟨same.responses, same.phase, same.eq_of_live⟩

end Sys2Proof.Machine
end

section
/-! How an attempt begins and how it is abandoned: the state its head makes, and where the next attempt or the
fault finds the stream. -/

namespace Sys2Proof.Machine

/-! ## The pieces of an attempt -/

theorem piece_head {s : State} (hp : s.phase = .attemptStart) : s.piece? = some (startAttempt s) := by
  rw [State.piece?, hp]

theorem piece_close {s : State} (hp : s.phase = .emitting) (ha : s.acts = []) :
    s.piece? = some (closeAttempt s) := by
  rw [State.piece?, hp, ha]

theorem piece_activation {s : State} {a : Activation} {rest : List Activation} (hp : s.phase = .emitting)
    (ha : s.acts = a :: rest) : s.piece? = perform a { s with acts := rest } := by
  cases s
  cases hp
  cases ha
  rfl

/-- The step of an attempt performs its next piece. -/
theorem step_of_piece {s : State} {e : Emit} (h : s.piece? = some e) : step s = .next (settle e) := by
  cases hp : s.phase with
  | attemptStart =>
    cases (piece_head hp).symm.trans h
    rw [step, hp]
  | emitting =>
    have hs : step s = emitStep s := by rw [step, hp]
    rw [hs, emitStep]
    split
    · rename_i ha
      cases (piece_close hp ha).symm.trans h
      rfl
    · rename_i ha
      rw [← piece_activation hp ha, h]
  | _ => simp only [State.piece?, hp, reduceCtorEq] at h

theorem Emit.andThen_eq_abandoned {e : Emit} {k : State → Emit} {u : State} (h : e.andThen k = .abandoned u) :
    e = .abandoned u ∨ ∃ t, e = .ok t ∧ k t = .abandoned u := by
  cases e with
  | ok t => exact .inr ⟨t, rfl, h⟩
  | abandoned t => exact .inl h
  | lookupFailed base residue t => cases h

theorem charge_eq_abandoned {c : Nat} {s t : State} (h : charge c s = .abandoned t) :
    t = { s with cost := s.cost + c } ∧ s.cfg.maxCost < t.cost := by
  unfold charge at h
  split at h
  · cases h; exact ⟨rfl, ‹_›⟩
  · cases h

theorem append_eq_abandoned {i : Instr} {s t : State} (h : append i s = .abandoned t) :
    t = { s with buf := s.buf ++ [encode i], cost := s.cost + opCost s.cfg.costs i } ∧
      s.cfg.maxCost < t.cost :=
  charge_eq_abandoned h

/-! ## The head of an attempt -/

/-- The state the head of an attempt makes: buffer and activations empty, the framing charge of 9, the stream
seeded again where the configuration says so (R196, R198). -/
def attemptHead (s : State) : State :=
  { if s.cfg.reseedPerAttempt then s.seedGenerators (slotSeed s.slot) else s with
    phase := .emitting, buf := [], cost := 9, acts := [] }

theorem attemptHead_of_continue {s : State} (h : s.cfg.reseedPerAttempt = false) :
    attemptHead s = { s with phase := .emitting, buf := [], cost := 9, acts := [] } := by
  rw [attemptHead, h]
  rfl

theorem attemptHead_of_reseed {s : State} (h : s.cfg.reseedPerAttempt = true) :
    attemptHead s =
      { s.seedGenerators (slotSeed s.slot) with phase := .emitting, buf := [], cost := 9, acts := [] } := by
  rw [attemptHead, h]
  rfl

theorem attemptHead_frame (s : State) : AttemptFrame s (attemptHead s) := by
  unfold attemptHead
  split <;> rfl

/-- The head makes that state, and the attempt goes on from it or is abandoned there (R183, R196). -/
theorem openAttempt_eq (s : State) :
    openAttempt s = if s.cfg.maxCost < 9 then .abandoned (attemptHead s) else .ok (attemptHead s) := by
  dsimp only [openAttempt, attemptHead]
  split <;> rfl

theorem startAttempt_of_ge {s : State} (h : 9 ≤ s.cfg.maxCost) :
    startAttempt s = .ok { attemptHead s with acts := [.subroutine s.rounds] } := by
  rw [startAttempt, openAttempt_eq, if_neg h.not_gt, Emit.andThen, ← (attemptHead_frame s).rounds]

theorem startAttempt_of_lt {s : State} (h : s.cfg.maxCost < 9) :
    startAttempt s = .abandoned (attemptHead s) := by
  rw [startAttempt, openAttempt_eq, if_pos h, Emit.andThen]

theorem startAttempt_abandoned_cost {s u : State} (h : startAttempt s = .abandoned u) :
    s.cfg.maxCost < u.cost := by
  by_cases hb : s.cfg.maxCost < 9
  · cases (startAttempt_of_lt hb).symm.trans h
    exact hb
  · cases (startAttempt_of_ge (Nat.le_of_not_lt hb)).symm.trans h

/-! ## An abandoned attempt -/

/-- The close of an attempt draws nothing, and is abandoned by either of its charges (R196). -/
theorem closeAttempt_abandoned {s u : State} (h : closeAttempt s = .abandoned u) :
    StoppedAt s u ∧ s.cfg.maxCost < u.cost := by
  obtain h | ⟨v, -, h⟩ := Emit.andThen_eq_abandoned h
  · obtain h | ⟨t, ht, h⟩ := Emit.andThen_eq_abandoned h
    · obtain ⟨rfl, hc⟩ := append_eq_abandoned h
      exact ⟨.of_fields s _ _, hc⟩
    · obtain rfl := append_eq_ok ht
      obtain ⟨rfl, hc⟩ := charge_eq_abandoned h
      exact ⟨.of_fields s _ _, hc⟩
  · cases h

/-- A piece inside an attempt that is abandoned stops above the budget, with the stream where its last draw
left it (R198). -/
theorem emitting_piece_abandoned {s u : State} (hp : s.phase = .emitting)
    (h : s.piece? = some (.abandoned u)) :
    ∃ acts, StoppedAt { s with acts := acts } u ∧ s.cfg.maxCost < u.cost := by
  cases ha : s.acts with
  | nil => exact ⟨s.acts, closeAttempt_abandoned (Option.some.inj ((piece_close hp ha).symm.trans h))⟩
  | cons a rest => exact ⟨rest, perform_moves ((piece_activation hp ha).symm.trans h)⟩

/-- An abandoned piece leaves nothing but FE's own registers changed and is above the budget. -/
theorem piece_abandoned {s u : State} (h : s.piece? = some (.abandoned u)) :
    AttemptFrame s u ∧ s.cfg.maxCost < u.cost := by
  cases hp : s.phase with
  | attemptStart =>
    have hs : startAttempt s = .abandoned u := Option.some.inj ((piece_head hp).symm.trans h)
    have hf := startAttempt_frame s
    rw [hs] at hf
    exact ⟨hf, startAttempt_abandoned_cost hs⟩
  | emitting =>
    obtain ⟨acts, hstop, hc⟩ := emitting_piece_abandoned hp h
    exact ⟨hstop.frame, hc⟩
  | _ => simp only [State.piece?, hp, reduceCtorEq] at h

theorem abandonAttempt_of_ge {u : State} (h : 2 ≤ u.rounds) :
    abandonAttempt u = { u with acts := [], rounds := u.rounds - 1, phase := .attemptStart } :=
  if_neg (by omega)

theorem abandonAttempt_of_le {u : State} (h : u.rounds ≤ 1) :
    abandonAttempt u = u.takeFault (.budgetExhausted u.slot) :=
  if_pos h

/-- Settles O60: the head of an attempt is `attemptHead`, and the step of an abandoned piece is
`abandonAttempt`. -/
theorem attemptsStartFreshAndRetryWithOneRoundFewer :
    Obligations.AttemptsStartFreshAndRetryWithOneRoundFewer := by
  intro s
  refine ⟨fun hp hmax => ?starts, fun hp hmax => ?tooSmall, fun u hu => ?abandoned⟩
  case starts =>
    have hstep := step_of_piece (piece_head hp)
    rw [startAttempt_of_ge hmax, settle] at hstep
    refine ⟨fun hcont => ?_, fun hreseed seed hseed => ?_⟩
    · rw [hstep, attemptHead_of_continue hcont]
    · obtain rfl := eq_slotSeed_of_toNat hseed
      rw [hstep, attemptHead_of_reseed hreseed]
      rfl
  case tooSmall =>
    have hpiece := (piece_head hp).trans (congrArg some (startAttempt_of_lt hmax))
    exact ⟨attemptHead s, hpiece, attemptHead_of_continue⟩
  case abandoned =>
    obtain ⟨hframe, hcost⟩ := piece_abandoned hu
    have hrounds := hframe.rounds
    have hslot := hframe.keeps.slot
    refine ⟨hframe.keeps.cfg ▸ hcost, fun hr => ?again, fun hr => ?fails, fun hp => ?stream⟩
    case again => rw [step_of_piece hu, settle, abandonAttempt_of_ge (hr.trans_eq hrounds.symm), hrounds]
    case fails => rw [step_of_piece hu, settle, abandonAttempt_of_le (hrounds.trans_le hr), hslot]
    case stream =>
      obtain ⟨acts, ⟨d, buf, cost, rfl⟩, -⟩ := emitting_piece_abandoned hp hu
      exact ⟨d, rfl⟩

end Sys2Proof.Machine
end

section
/-! The machine performs the grammar: from a called activation its steps make what the recursive production
makes, in an attempt what `emitAttempt` makes, in a fill what `performFill` makes; each within a bound. -/

namespace Sys2Proof.Machine

/-! ## Bounded sequences of steps -/

/-- The machine gets from `s` to `t` in at most `n` steps. -/
def ReachesWithin (n : Nat) (s t : State) : Prop := ∃ m ≤ n, runs m s = .next t

namespace ReachesWithin

variable {n m : Nat} {s t u : State}

theorem refl (s : State) : ReachesWithin 0 s s := ⟨0, le_rfl, rfl⟩

theorem one (h : step s = .next t) : ReachesWithin 1 s t := ⟨1, le_rfl, by rw [runs, h]; rfl⟩

theorem trans (h : ReachesWithin n s t) (k : ReachesWithin m t u) : ReachesWithin (n + m) s u := by
  obtain ⟨i, hi, hs⟩ := h
  obtain ⟨j, hj, ht⟩ := k
  exact ⟨i + j, Nat.add_le_add hi hj, (runs_add i j s t hs).trans ht⟩

theorem mono (h : ReachesWithin n s t) (hnm : n ≤ m) : ReachesWithin m s t := by
  obtain ⟨i, hi, hs⟩ := h
  exact ⟨i, hi.trans hnm, hs⟩

theorem reaches (h : ReachesWithin n s t) : Reaches s t := by
  obtain ⟨i, -, hs⟩ := h
  exact ⟨i, hs⟩

theorem of_piece {e : Emit} (h : s.piece? = some e) : ReachesWithin 1 s (settle e) := one (step_of_piece h)

/-- The steps of a piece, then those of the next one where the attempt goes on. -/
theorem andThen {e : Emit} {k : State → Emit} (h : ReachesWithin n s (settle e))
    (hk : ∀ t, e = .ok t → ReachesWithin m t (settle (k t))) :
    ReachesWithin (n + m) s (settle (e.andThen k)) := by
  cases e with
  | ok t => exact h.trans (hk t rfl)
  | abandoned t => exact h.mono (Nat.le_add_right n m)
  | lookupFailed base residue t => exact h.mono (Nat.le_add_right n m)

/-- A step that performs a piece and then `j`, where the steps after it complete `k`. -/
theorem of_piece_andThen {e : Emit} {j k : State → Emit} (h : s.piece? = some (e.andThen j))
    (hk : ∀ t, e = .ok t → ReachesWithin m (settle (j t)) (settle (k t))) :
    ReachesWithin (1 + m) s (settle (e.andThen k)) := by
  have first := of_piece h
  cases e with
  | ok t => exact first.trans (hk t rfl)
  | abandoned t => exact first.mono (Nat.le_add_right 1 m)
  | lookupFailed base residue t => exact first.mono (Nat.le_add_right 1 m)

end ReachesWithin

/-! ## Pieces do not read the activations -/

/-- The same end of a piece with other activations waiting. -/
def Emit.withActs (acts : List Activation) : Emit → Emit
  | .ok s => .ok { s with acts := acts }
  | .abandoned s => .abandoned { s with acts := acts }
  | .lookupFailed base residue s => .lookupFailed base residue { s with acts := acts }

/-- A piece that neither reads nor writes the live activations. -/
def IgnoresActs (k : State → Emit) : Prop :=
  ∀ (s : State) (acts : List Activation), k { s with acts := acts } = (k s).withActs acts

theorem IgnoresActs.andThen {k : State → Emit} (hk : IgnoresActs k) (e : Emit) (acts : List Activation) :
    (e.withActs acts).andThen k = (e.andThen k).withActs acts := by
  cases e with
  | ok s => exact hk s acts
  | abandoned s => rfl
  | lookupFailed base residue s => rfl

/-- Two such pieces one after the other. -/
theorem IgnoresActs.seq {j k : State → Emit} (hj : IgnoresActs j) (hk : IgnoresActs k) :
    IgnoresActs fun s => (j s).andThen k :=
  fun s acts => (congrArg (·.andThen k) (hj s acts)).trans (hk.andThen (j s) acts)

/-- Such a piece after a draw whose value it may use. -/
theorem IgnoresActs.draw {k : Word → State → Emit} (hk : ∀ d, IgnoresActs (k d)) :
    IgnoresActs fun s => k s.draw.1 s.draw.2 :=
  fun s acts => hk s.draw.1 s.draw.2 acts

theorem charge_ignoresActs (c : Nat) : IgnoresActs (charge c) := by
  intro s acts
  unfold charge
  dsimp only
  split <;> rfl

theorem append_ignoresActs (i : Instr) : IgnoresActs (append i) :=
  fun s acts => charge_ignoresActs _ { s with buf := s.buf ++ [encode i] } acts

theorem select_ignoresActs (base m : Nat) {choice : Nat → State → Emit} (h : ∀ k, IgnoresActs (choice k)) :
    IgnoresActs (select base m choice) := by
  intro s acts
  dsimp only [select]
  have same : State.draw { s with acts := acts } = (s.draw.1, { s.draw.2 with acts := acts }) := rfl
  rw [same]
  cases lookup s.cfg.order base m (s.draw.1.toNat % m) with
  | some k => exact h k s.draw.2 acts
  | none => rfl

theorem finalChoice_ignoresActs (k : Nat) : IgnoresActs (finalChoice k) :=
  match k with
  | 0 => .draw fun d => append_ignoresActs (.loadArg d)
  | 1 => append_ignoresActs .loadInput
  | _ + 2 => .draw fun d => append_ignoresActs (.loadFromBuffer (d &&& 0x3FF))

theorem addOrSubtract_ignoresActs : IgnoresActs addOrSubtract := by
  intro s acts
  by_cases h : isEven s.draw.1 = s.cfg.addsubEvenIsAdd
  · rw [addOrSubtract_of_add h]
    exact (addOrSubtract_of_add (s := { s with acts := acts }) h).trans
      (append_ignoresActs _ s.draw.2.draw.2 acts)
  · rw [addOrSubtract_of_subtract h]
    exact (addOrSubtract_of_subtract (s := { s with acts := acts }) h).trans
      (append_ignoresActs _ s.draw.2.draw.2 acts)

theorem innerChoice_ignoresActs (k : Nat) : IgnoresActs (innerChoice k) :=
  match k with
  | 0 | 1 | 2 | 3 | 4 | _ + 7 => append_ignoresActs _
  | 5 => .draw fun d => append_ignoresActs (.bitwiseXor d)
  | 6 => addOrSubtract_ignoresActs

theorem subroutineChoice_ignoresActs (k : Nat) : IgnoresActs (subroutineChoice k) :=
  match k with
  | 0 | 1 | 2 | 3 | 4 | _ + 5 => append_ignoresActs _

theorem emitProduction_ignoresActs (n : Nat) : ∀ p : Production, IgnoresActs (emitProduction p n) := by
  induction n with
  | zero => rintro (_ | _) <;> exact select_ignoresActs 14 3 finalChoice_ignoresActs
  | succ n ih =>
    have call : IgnoresActs fun s => emitProduction (coinProduction s.draw.1) n s.draw.2 :=
      .draw (k := fun d => emitProduction (coinProduction d) n) fun d => ih (coinProduction d)
    have combine : IgnoresActs subroutineEnd :=
      (select_ignoresActs 8 6 subroutineChoice_ignoresActs).seq (append_ignoresActs .ret)
    intro p
    cases p with
    | inner => exact call.seq (select_ignoresActs 0 8 innerChoice_ignoresActs)
    | subroutine =>
      exact (append_ignoresActs .subroutine).seq <| call.seq <|
        (append_ignoresActs .saveToContext).seq <| call.seq combine

/-- An attempt that stops takes its activations with it (R196, R201). -/
theorem settle_withActs {e : Emit} (acts : List Activation) (h : ∀ t, e ≠ .ok t) :
    settle (e.withActs acts) = settle e := by
  cases e with
  | ok t => exact absurd rfl (h t)
  | abandoned t => rfl
  | lookupFailed base residue t => rfl

/-! ## A production -/

/-- The activation of a production that has been called and not yet begun. -/
def Production.called : Production → Nat → Activation
  | .inner, n => .inner n
  | .subroutine, n => .subroutine n

theorem coinCallee_eq_called (d : Word) (n : Nat) : coinCallee d n = (coinProduction d).called n := by
  unfold coinCallee coinProduction
  split <;> rfl

/-- The most steps that perform a production at step `n + 1`. -/
def productionSteps : Nat → Nat
  | 0 => 1
  | n + 1 => 2 * productionSteps n + 3

/-- The machine performs the productions at step `n + 1` above any callers. -/
def PerformsProductions (n : Nat) : Prop :=
  ∀ (p : Production) (s : State) (rest : List Activation), s.phase = .emitting →
    s.acts = p.called (n + 1) :: rest →
    ReachesWithin (productionSteps n) s (settle (emitProduction p n { s with acts := rest }))

/-- A coin and the production it calls, then the rest `k` of the caller, which waits as `waiting` (R189). -/
theorem PerformsProductions.coin {n m : Nat} (hn : PerformsProductions n) {waiting : Activation}
    {k : State → Emit} {s : State} (hp : s.phase = .emitting)
    (hk : ∀ t : State, t.phase = .emitting →
      ReachesWithin m { t with acts := waiting :: t.acts } (settle (k t))) :
    ReachesWithin (productionSteps n + m) (settle (coinRecurse (n + 1) waiting s))
      (settle ((emitProduction (coinProduction s.draw.1) n s.draw.2).andThen k)) := by
  have body := hn (coinProduction s.draw.1) (settle (coinRecurse (n + 1) waiting s)) (waiting :: s.acts) hp
    (by rw [← coinCallee_eq_called]; rfl)
  have ignore : emitProduction (coinProduction s.draw.1) n { s.draw.2 with acts := waiting :: s.acts } = _ :=
    emitProduction_ignoresActs n _ s.draw.2 (waiting :: s.acts)
  replace body := (congrArg (fun e => ReachesWithin _ _ (settle e)) ignore).mp body
  have made := emitProduction_produces n (coinProduction s.draw.1) s.draw.2
  generalize emitProduction (coinProduction s.draw.1) n s.draw.2 = e at body made ⊢
  cases e with
  | ok t =>
    obtain ⟨d, is, ht, -⟩ := made
    subst ht
    exact body.trans (hk _ hp)
  | abandoned t =>
    rw [settle_withActs _ (by simp)] at body
    exact body.mono (Nat.le_add_right _ m)
  | lookupFailed base residue t =>
    rw [settle_withActs _ (by simp)] at body
    exact body.mono (Nat.le_add_right _ m)

/-- The piece of an activation that has waited for the one above it. -/
theorem piece_waiting {s : State} (hp : s.phase = .emitting) (waiting : Activation) :
    State.piece? { s with acts := waiting :: s.acts } = perform waiting s :=
  piece_activation (s := { s with acts := waiting :: s.acts }) hp rfl

theorem append_ok_phase {i : Instr} {s t : State} (h : append i s = .ok t) : t.phase = s.phase := by
  rw [append_eq_ok h]

/-- One step for a final phase; a step to each call and one to the end for the others (R190, R194). -/
theorem performsProductions (n : Nat) : PerformsProductions n := by
  induction n with
  | zero =>
    intro p s rest hp ha
    refine .of_piece ((piece_activation hp ha).trans ?_)
    cases p <;> rfl
  | succ n ih =>
    intro p s rest hp ha
    cases p with
    | inner =>
      have call : ReachesWithin 1 s
          (settle (coinRecurse (n + 1) (.innerTail (n + 2)) { s with acts := rest })) :=
        .of_piece (piece_activation hp ha)
      have body : ReachesWithin (productionSteps n + 1) _
          (settle (emitProduction .inner (n + 1) { s with acts := rest })) :=
        ih.coin (s := { s with acts := rest }) hp fun t ht =>
          .of_piece (piece_waiting ht (.innerTail (n + 2)))
      exact (call.trans body).mono (by rw [productionSteps]; omega)
    | subroutine =>
      have steps : ReachesWithin (1 + (productionSteps n + (1 + (productionSteps n + 1)))) s
          (settle (emitProduction .subroutine (n + 1) { s with acts := rest })) := by
        refine .of_piece_andThen (piece_activation hp ha) fun u hu => ?_
        refine ih.coin ((append_ok_phase hu).trans hp) fun t ht => ?_
        refine .of_piece_andThen (piece_waiting ht _) fun v hv => ?_
        exact ih.coin ((append_ok_phase hv).trans ht) fun w hw => .of_piece (piece_waiting hw _)
      exact steps.mono (by rw [productionSteps]; omega)

/-- Settles O42: the steps that `performsProductions` counts. -/
theorem activationsPerformTheRecursiveProductions : Obligations.ActivationsPerformTheRecursiveProductions :=
  fun n s rest hp => ⟨fun ha => (performsProductions n .inner s rest hp ha).reaches,
    fun ha => (performsProductions n .subroutine s rest hp ha).reaches⟩

/-! ## An attempt and a fill -/

theorem Emit.andThen_assoc (e : Emit) (j k : State → Emit) :
    (e.andThen j).andThen k = e.andThen fun s => (j s).andThen k := by
  cases e <;> rfl

theorem eq_attemptHead_of_openAttempt {s u : State} (h : openAttempt s = .ok u) : u = attemptHead s := by
  rw [openAttempt_eq] at h
  split at h <;> cases h
  rfl

/-- A completed production leaves the phase and the activations as it found them. -/
theorem emitProduction_eq_ok {p : Production} {n : Nat} {s t : State} (h : emitProduction p n s = .ok t) :
    t.phase = s.phase ∧ t.acts = s.acts := by
  have made := emitProduction_produces n p s
  rw [h] at made
  obtain ⟨d, is, rfl, -⟩ := made
  exact ⟨rfl, rfl⟩

theorem emitAttempt_abandoned_rounds {s t : State} (h : emitAttempt s = .abandoned t) :
    t.rounds = s.rounds := by
  have hf := emitAttempt_frame s
  rw [h] at hf
  exact hf.rounds

/-- A step for the head of the attempt, those of its production and a step for its close (R196). -/
theorem reachesWithin_emitAttempt {n : Nat} {s : State} (hp : s.phase = .attemptStart)
    (hr : s.rounds = n + 1) :
    ReachesWithin (productionSteps n + 2) s (settle (emitAttempt s)) := by
  have steps : ReachesWithin (1 + (productionSteps n + 1)) s (settle (emitAttempt s)) := by
    rw [emitAttempt, Emit.andThen_assoc, hr]
    refine .of_piece_andThen (piece_head hp) fun u hu => ?_
    obtain rfl := eq_attemptHead_of_openAttempt hu
    have called : (attemptHead s).rounds = n + 1 := (attemptHead_frame s).rounds.trans hr
    have production := performsProductions n .subroutine
      { attemptHead s with acts := [.subroutine (attemptHead s).rounds] } [] rfl (by rw [called]; rfl)
    refine production.andThen fun t ht => ?_
    obtain ⟨hphase, hacts⟩ := emitProduction_eq_ok ht
    exact .of_piece (piece_close hphase hacts)
  exact steps.mono (by omega)

/-- The most steps of the attempts from `n` rounds down. -/
def attemptsSteps : Nat → Nat
  | 0 => 0
  | n + 1 => productionSteps n + 2 + attemptsSteps n

theorem reachesWithin_emitLoop (n : Nat) : ∀ s : State, AttemptsLeft n s → (n ≠ 0 → s.phase = .attemptStart) →
    ReachesWithin (attemptsSteps n) s (emitLoop n s) := by
  induction n with
  | zero => exact fun s _ _ => .refl s
  | succ n ih =>
    intro s hn hp
    have attempt := reachesWithin_emitAttempt (hp n.succ_ne_zero) hn
    rw [emitLoop, attemptsSteps]
    cases he : emitAttempt s with
    | ok t =>
      rw [he] at attempt
      exact attempt.mono (Nat.le_add_right _ _)
    | abandoned t =>
      rw [he] at attempt
      refine attempt.trans (ih _ (emitAttempt_abandoned_attemptsLeft hn he) fun hn0 => ?_)
      have hrounds : t.rounds = n + 1 := (emitAttempt_abandoned_rounds he).trans hn
      rw [settle, abandonAttempt_of_ge (by omega)]
    | lookupFailed base residue t =>
      rw [he] at attempt
      exact attempt.mono (Nat.le_add_right _ _)

/-- The step that seeds, and the attempts of five rounds and fewer. -/
theorem reachesWithin_fillSlot {s : State} (hp : s.phase = .fillStart) : ReachesWithin 120 s (fillSlot s) :=
  (ReachesWithin.one (step_fillStart hp)).trans
    (reachesWithin_emitLoop 5 _ (beginFill_attemptsLeft s) fun _ => rfl)

theorem step_of_storing {s : State} (h : s.phase = .storing) : step s = .next (storeProgram s) := by
  rw [step, h]

/-- A step more stores the program. -/
theorem reachesWithin_performFill {s : State} (hp : s.phase = .fillStart) :
    ReachesWithin 121 s (performFill s) := by
  have fill := reachesWithin_fillSlot hp
  dsimp only [performFill]
  split
  · exact fill.mono (by decide)
  · rename_i hidle
    exact fill.trans (.one (step_of_storing ((fillSlot_phase s).resolve_right hidle)))

theorem performFill_phase (s : State) :
    (performFill s).phase = .runStart .low ∨ (performFill s).phase = .idle := by
  dsimp only [performFill]
  split
  · exact .inr ‹_›
  · obtain ⟨-, e⟩ | e := storeProgram_cases (s := fillSlot s) rfl
    · exact .inl (e ▸ rfl)
    · exact .inr (e ▸ rfl)

/-- Settles O43: 121 is one step to seed, 119 for the five attempts and one to store. -/
theorem everyFillEndsWithinBoundedSteps : Obligations.EveryFillEndsWithinBoundedSteps := by
  intro s hp
  obtain ⟨n, hn, hruns⟩ := reachesWithin_performFill hp
  exact ⟨n, performFill s, hn, hruns, performFill_phase s⟩

end Sys2Proof.Machine
end

section
/-! When a fill fails and when it cannot: how its attempts end, which residues and which budgets make them
fail, and what CC stores when they do not. -/

namespace Sys2Proof.Machine

/-! ## How a fill ends -/

theorem AttemptFrame.responses {s t : State} (h : AttemptFrame s t) : t.responses = s.responses := by rw [h]

/-- From `s` to `t` a fill has answered nothing and has left the configuration and the memories alone. -/
structure FillFrame (s t : State) : Prop extends KeepsMemories s t where
  responses : t.responses = s.responses

theorem FillFrame.trans {s t u : State} (h : FillFrame s t) (k : FillFrame t u) : FillFrame s u where
  toKeepsMemories := h.toKeepsMemories.trans k.toKeepsMemories
  responses := k.responses.trans h.responses

theorem AttemptFrame.fillFrame {s t : State} (h : AttemptFrame s t) : FillFrame s t := ⟨h.keeps, h.responses⟩

theorem FillFrame.attempt {s u : State} {e : Emit} (h : FillFrame s u) (he : emitAttempt u = e) :
    FillFrame s e.state :=
  he ▸ h.trans (emitAttempt_frame u).fillFrame

/-- The three ends of a fill begun in `s` (R199, R201), with the attempt `u` that brought each about: it was
completed, it was abandoned and the last, or one of its lookups failed. -/
inductive FillEnds (s : State) : State → Prop where
  | returned {u t : State} (hu : FillFrame s u) (hone : 1 ≤ u.rounds) (hfive : u.rounds ≤ 5)
      (h : emitAttempt u = .ok t) : FillEnds s t
  | exhausted {u t : State} (hu : FillFrame s u) (hone : u.rounds = 1) (h : emitAttempt u = .abandoned t) :
      FillEnds s (t.takeFault (.budgetExhausted s.slot))
  | lookupFailed {u t : State} {base residue : Nat} (hu : FillFrame s u)
      (h : emitAttempt u = .lookupFailed base residue t) :
      FillEnds s (t.takeFault (.lookupFailed s.slot base residue))

/-- The attempts end that way if those after an abandoned one do. -/
theorem fillEnds_emitLoop_succ {s u : State} {n : Nat} (hu : FillFrame s u) (hr : u.rounds = n + 1)
    (hfive : n + 1 ≤ 5)
    (retry : ∀ t, emitAttempt u = .abandoned t → FillEnds s (emitLoop n (abandonAttempt t))) :
    FillEnds s (emitLoop (n + 1) u) := by
  rw [emitLoop]
  cases he : emitAttempt u with
  | ok t => exact .returned hu (by omega) (by omega) he
  | abandoned t => exact retry t he
  | lookupFailed base residue t =>
    have hslot : t.slot = s.slot := (hu.attempt he).slot
    dsimp only [settle]
    rw [hslot]
    exact .lookupFailed hu he

theorem fillEnds_emitLoop {s : State} (n : Nat) :
    ∀ u : State, FillFrame s u → u.rounds = n + 1 → n + 1 ≤ 5 → FillEnds s (emitLoop (n + 1) u) := by
  induction n with
  | zero =>
    intro u hu hr hfive
    refine fillEnds_emitLoop_succ hu hr hfive fun t ht => ?_
    have hrounds : t.rounds = 1 := (emitAttempt_abandoned_rounds ht).trans hr
    have hslot : t.slot = s.slot := (hu.attempt ht).slot
    rw [emitLoop, abandonAttempt_of_le hrounds.le, hslot]
    exact .exhausted hu hr ht
  | succ n ih =>
    intro u hu hr hfive
    refine fillEnds_emitLoop_succ hu hr hfive fun t ht => ?_
    have hrounds : t.rounds = n + 2 := (emitAttempt_abandoned_rounds ht).trans hr
    rw [abandonAttempt_of_ge (by omega)]
    exact ih _ ((hu.attempt ht).trans ⟨⟨rfl, rfl, rfl, rfl⟩, rfl⟩) (by simp [hrounds]) (by omega)

theorem fillEnds_fillSlot (s : State) : FillEnds s (fillSlot s) :=
  fillEnds_emitLoop 4 (beginFill s) ⟨beginFill_keeps s, rfl⟩ rfl le_rfl

/-! ## Lookups that fail -/

theorem Emit.andThen_eq_lookupFailed {e : Emit} {k : State → Emit} {base residue : Nat} {u : State}
    (h : e.andThen k = .lookupFailed base residue u) :
    e = .lookupFailed base residue u ∨ ∃ t, e = .ok t ∧ k t = .lookupFailed base residue u := by
  cases e with
  | ok t => exact .inr ⟨t, rfl, h⟩
  | abandoned t => cases h
  | lookupFailed base residue t => exact .inl h

theorem charge_ne_lookupFailed {c base residue : Nat} {s u : State} :
    charge c s ≠ .lookupFailed base residue u := by
  unfold charge
  split <;> simp

theorem closeAttempt_ne_lookupFailed {base residue : Nat} {s u : State} :
    closeAttempt s ≠ .lookupFailed base residue u := by
  intro h
  obtain h | ⟨v, -, h⟩ := Emit.andThen_eq_lookupFailed h
  · obtain h | ⟨t, -, h⟩ := Emit.andThen_eq_lookupFailed h
    · exact charge_ne_lookupFailed h
    · exact charge_ne_lookupFailed h
  · cases h

/-- An attempt looks up in its productions only, and fails at a residue that its group lacks (R185, R186). -/
theorem emitAttempt_lookupFailed {base residue : Nat} {s u : State}
    (h : emitAttempt s = .lookupFailed base residue u) : MissingResidue s.cfg.order base residue := by
  obtain h | ⟨v, -, h⟩ := Emit.andThen_eq_lookupFailed h
  · obtain h | ⟨t, ht, h⟩ := Emit.andThen_eq_lookupFailed h
    · exact absurd h charge_ne_lookupFailed
    · obtain rfl := eq_attemptHead_of_openAttempt ht
      have made := emitProduction_produces (s.rounds - 1) .subroutine (attemptHead s)
      rw [h] at made
      exact (attemptHead_frame s).keeps.cfg ▸ made.2
  · exact absurd h closeAttempt_ne_lookupFailed

/-- A lookup finds an entry exactly when one of the group equals the residue (R185). -/
theorem lookup_isSome (order : Vector Word 17) (base m r : Nat) :
    (lookup order base m r).isSome = (orderGroup order base m).any fun e => e.toInt == (r : Int) := by
  rw [lookup_eq_findIdx?, List.findIdx?_isSome]

theorem groupTotal_iff (c : Configuration) (base m : Nat) :
    c.groupTotal base m = true ↔ ∀ r < m, (lookup c.order base m r).isSome = true := by
  simp only [Configuration.groupTotal, List.all_eq_true, List.mem_range, lookup_isSome, orderGroup]

theorem groupTotal_of_orderTotal {c : Configuration} (h : c.orderTotal = true) :
    ∀ g ∈ orderGroups, c.groupTotal g.1 g.2 = true := by
  simpa [Configuration.orderTotal, orderGroups, and_assoc] using h

theorem not_missingResidue {c : Configuration} (h : c.orderTotal = true) {base residue : Nat} :
    ¬ MissingResidue c.order base residue := by
  rintro ⟨m, hg, hr, hnone⟩
  have found := (groupTotal_iff c base m).mp (groupTotal_of_orderTotal h (base, m) hg) residue hr
  rw [hnone] at found
  cases found

/-! ## Budgets -/

theorem le_opCost_of_isFinal (c : OpenCosts) : ∀ {i : Instr}, i.isFinal = true →
    min 5 (min 11 c.loadInput) ≤ opCost c i
  | .loadArg _, _ | .loadInput, _ | .loadFromBuffer _, _ => by simp only [opCost]; omega

theorem opCost_le_of_isFinal {c : OpenCosts} (hc : c.loadInput ≤ 11) : ∀ {i : Instr}, i.isFinal = true →
    opCost c i ≤ 11
  | .loadArg _, _ | .loadInput, _ | .loadFromBuffer _, _ => by simp only [opCost]; omega

theorem instrCost_cons (c : OpenCosts) (i : Instr) (is : List Instr) :
    instrCost c (i :: is) = opCost c i + instrCost c is := by
  simp [instrCost]

/-- The words of a production hold a load, and cost at least what the cheapest load costs. -/
theorem Produces.le_instrCost {n d : Nat} {is : List Instr} (h : Produces n d is) (c : OpenCosts) :
    min 5 (min 11 c.loadInput) ≤ instrCost c is := by
  obtain ⟨m, i, rest, hi, rfl⟩ := h.subroutines_then_load
  have := le_opCost_of_isFinal c hi
  rw [instrCost_append, instrCost_cons]
  omega

/-- The least budget of a completed attempt: both framing charges, RETURN and the cheapest load (R202). -/
theorem le_maxCost_of_emitAttempt {s t : State} (h : emitAttempt s = .ok t) :
    14 + s.cfg.costs.ret + min 5 (min 11 s.cfg.costs.loadInput) ≤ s.cfg.maxCost := by
  obtain ⟨d, is, his, hbuf, -, hcost⟩ := emitAttempt_produces h
  have := his.le_instrCost s.cfg.costs
  rw [hbuf, programCost_map_encode, instrCost_append, instrCost_singleton, opCost] at hcost
  omega

theorem append_of_le {i : Instr} {s : State} (h : s.cost + opCost s.cfg.costs i ≤ s.cfg.maxCost) :
    append i s = .ok { s with buf := s.buf ++ [encode i], cost := s.cost + opCost s.cfg.costs i } :=
  charge_of_le h

/-- Each choice of the final phase appends a load, after its draw if it makes one (R187). -/
theorem finalChoice_eq_append (k : Nat) (s : State) :
    ∃ i t, finalChoice k s = append i t ∧ i.isFinal = true ∧ t.cost = s.cost ∧ t.cfg = s.cfg :=
  match k with
  | 0 => ⟨.loadArg s.draw.1, s.draw.2, rfl, rfl, rfl, rfl⟩
  | 1 => ⟨.loadInput, s, rfl, rfl, rfl, rfl⟩
  | _ + 2 => ⟨.loadFromBuffer (s.draw.1 &&& 0x3FF), s.draw.2, rfl, decide_eq_true (and_mask_le _), rfl, rfl⟩

/-- With 11 left in the budget no load is too dear (R202). -/
theorem emitFinal_ne_abandoned {s u : State} (hc : s.cfg.costs.loadInput ≤ 11)
    (hs : s.cost + 11 ≤ s.cfg.maxCost) :
    emitFinal s ≠ .abandoned u := by
  dsimp only [emitFinal, select]
  split
  · rename_i k _
    obtain ⟨i, t, he, hi, hcost, hcfg⟩ := finalChoice_eq_append k s.draw.2
    have := opCost_le_of_isFinal hc hi
    rw [State.draw_cost] at hcost
    rw [State.draw_cfg] at hcfg
    rw [he, append_of_le (by rw [hcost, hcfg]; omega)]
    simp
  · simp

theorem closeAttempt_ne_abandoned {s u : State} (h : s.cost + s.cfg.costs.ret + 5 ≤ s.cfg.maxCost) :
    closeAttempt s ≠ .abandoned u := by
  have hret : append .ret s =
      .ok { s with buf := s.buf ++ [encode .ret], cost := s.cost + s.cfg.costs.ret } :=
    append_of_le (by rw [opCost]; omega)
  rw [closeAttempt, hret, Emit.andThen, charge_of_le h]
  simp [Emit.andThen]

theorem budgetSuffices_iff (c : Configuration) :
    c.budgetSuffices = true ↔ 25 + c.costs.ret ≤ c.maxCost ∧ c.costs.loadInput ≤ 11 := by
  simp [Configuration.budgetSuffices]

/-- A sufficient budget admits every attempt of one round (R202): 9, a load, RETURN and 5. -/
theorem emitAttempt_one_round_ne_abandoned {s u : State} (hb : s.cfg.budgetSuffices = true)
    (hr : s.rounds = 1) :
    emitAttempt s ≠ .abandoned u := by
  obtain ⟨hmax, hload⟩ := (budgetSuffices_iff s.cfg).mp hb
  have hcfg := (attemptHead_frame s).keeps.cfg
  have hcost : (attemptHead s).cost = 9 := rfl
  intro h
  rw [emitAttempt, openAttempt_eq, if_neg (by omega), Emit.andThen, hr] at h
  obtain h | ⟨v, hv, h⟩ := Emit.andThen_eq_abandoned h
  · exact emitFinal_ne_abandoned (hcfg ▸ hload) (by rw [hcfg, hcost]; omega) h
  · have made := emitProduction_produces 0 .subroutine (attemptHead s)
    rw [show emitProduction .subroutine 0 (attemptHead s) = .ok v from hv] at made
    obtain ⟨d, is, rfl, -, his⟩ := made
    cases his with
    | @final _ i _ hi =>
      refine closeAttempt_ne_abandoned ?_ h
      have := opCost_le_of_isFinal hload hi
      dsimp only
      rw [instrCost_singleton, hcost, hcfg]
      omega

/-! ## Fills that fail -/

/-- What a draw and its lookup do where the group lacks the residue (R185, R186). -/
theorem select_of_missing {base m : Nat} (choice : Nat → State → Emit) {s : State}
    (h : lookup s.cfg.order base m (s.draw.1.toNat % m) = none) :
    select base m choice s = .lookupFailed base (s.draw.1.toNat % m) s.draw.2 := by
  simp only [select, h]

theorem subroutineEnd_of_missing {s : State} (h : lookup s.cfg.order 8 6 (s.draw.1.toNat % 6) = none) :
    subroutineEnd s = .lookupFailed 8 (s.draw.1.toNat % 6) s.draw.2 := by
  rw [subroutineEnd, select_of_missing _ h, Emit.andThen]

/-- The step of an activation whose piece fails at the lookup of its first draw (R186, R201). -/
theorem step_of_lookupFailed {s : State} {a : Activation} {rest : List Activation} {base residue : Nat}
    (hp : s.phase = .emitting) (ha : s.acts = a :: rest)
    (h : perform a { s with acts := rest } =
      some (.lookupFailed base residue { s.draw.2 with acts := rest })) :
    step s = .next (s.draw.2.takeFault (.lookupFailed s.slot base residue)) :=
  step_of_piece ((piece_activation hp ha).trans h)

/-- The end of a fill that failed, and its fault (R201). -/
theorem FillEnds.returned_or_fault {s f : State} (h : FillEnds s f) :
    f.phase = .storing ∨ (f.phase = .idle ∧ f.slots = s.slots ∧
      (f.responses = s.responses ++ [.fault (.budgetExhausted s.slot)] ∨
        ∃ base residue, MissingResidue s.cfg.order base residue ∧
          f.responses = s.responses ++ [.fault (.lookupFailed s.slot base residue)])) := by
  cases h with
  | returned hu hone hfive h => exact .inl (emitAttempt_eq_ok h)
  | exhausted hu hone h =>
    have hf := hu.attempt h
    exact .inr ⟨rfl, hf.slots, .inl (congrArg (· ++ _) hf.responses)⟩
  | lookupFailed hu h =>
    have hf := hu.attempt h
    exact .inr ⟨rfl, hf.slots,
      .inr ⟨_, _, hu.cfg ▸ emitAttempt_lookupFailed h, congrArg (· ++ _) hf.responses⟩⟩

theorem FillEnds.le_maxCost {s f : State} (h : FillEnds s f) (hp : f.phase = .storing) :
    14 + s.cfg.costs.ret + min 5 (min 11 s.cfg.costs.loadInput) ≤ s.cfg.maxCost := by
  cases h with
  | returned hu hone hfive h => exact hu.cfg ▸ le_maxCost_of_emitAttempt h
  | exhausted hu hone h => cases hp
  | lookupFailed hu h => cases hp

/-- Settles O40: the three lookups are those of `select`; a fill ends as `FillEnds` says, and below the least
budget no attempt is completed. -/
theorem tooSmallABudgetFailsEveryFill : Obligations.TooSmallABudgetFailsEveryFill := by
  intro s
  have outcome := (fillEnds_fillSlot s).returned_or_fault
  refine ⟨fun hp => ⟨?inner, ?combine, ?final⟩, outcome, fun hbudget => ?tooSmall⟩
  case inner =>
    intro n rest ha hl
    have missing := congrArg some (select_of_missing innerChoice (s := { s with acts := rest }) hl)
    exact step_of_lookupFailed hp ha missing
  case combine =>
    intro n rest ha hl
    have missing := congrArg some (subroutineEnd_of_missing (s := { s with acts := rest }) hl)
    exact step_of_lookupFailed hp ha missing
  case final =>
    intro rest ha hl
    have missing := congrArg some (select_of_missing finalChoice (s := { s with acts := rest }) hl)
    exact ha.elim (fun ha => step_of_lookupFailed hp ha missing) fun ha => step_of_lookupFailed hp ha missing
  case tooSmall =>
    have hfail : (fillSlot s).phase ≠ .storing := fun hp =>
      absurd ((fillEnds_fillSlot s).le_maxCost hp) hbudget.not_ge
    obtain ⟨hidle, hslots, hfault⟩ := outcome.resolve_left hfail
    refine ⟨hidle, hslots, ?_, fun htotal => hfault.resolve_right ?_⟩
    · obtain h | ⟨base, residue, -, h⟩ := hfault
      · exact ⟨_, h⟩
      · exact ⟨_, h⟩
    · rintro ⟨base, residue, hmissing, -⟩
      exact not_missingResidue htotal hmissing

/-! ## Fills that cannot fail -/

/-- Under a total order table and a sufficient budget no fill fails: lookups find their entry, and an attempt
of one round is completed. -/
theorem FillEnds.completed {s f : State} (h : FillEnds s f) (htotal : s.cfg.orderTotal = true)
    (hb : s.cfg.budgetSuffices = true) :
    ∃ u, 1 ≤ u.rounds ∧ u.rounds ≤ 5 ∧ emitAttempt u = .ok f := by
  cases h with
  | returned hu hone hfive h => exact ⟨_, hone, hfive, h⟩
  | exhausted hu hone h => exact absurd h (emitAttempt_one_round_ne_abandoned (hu.cfg ▸ hb) hone)
  | lookupFailed hu h => exact absurd (emitAttempt_lookupFailed h) (not_missingResidue (hu.cfg ▸ htotal))

theorem fits_of_capacityAtLeast {n len : Nat} : ∀ {cap : Option Nat}, capacityAtLeast n cap = true → len ≤ n →
    fits cap len = true
  | none, _, _ => rfl
  | some _, h, hlen => decide_eq_true (hlen.trans (of_decide_eq_true h))

theorem storeProgram_of_fits {s : State} (h : fits s.cfg.progCap s.buf.length = true) :
    storeProgram s = { (s.storeSlot s.buf).endFill with phase := .runStart .low } :=
  if_pos h

theorem performFill_of_storing {s : State} (h : (fillSlot s).phase = .storing) :
    performFill s = storeProgram (fillSlot s) :=
  if_neg (by simp [h])

/-- Settles O41: the completed attempt made at most 77 words, which fit, and the machine performs the fill. -/
theorem sufficientConfigurationsFillEverySlot : Obligations.SufficientConfigurationsFillEverySlot := by
  intro s htotal hb
  obtain ⟨u, hone, hfive, hok⟩ := (fillEnds_fillSlot s).completed htotal hb
  have hstoring := emitAttempt_eq_ok hok
  have hk := fillSlot_keeps s
  refine ⟨hstoring, fun hcap => ?_⟩
  have hlen : (fillSlot s).buf.length ≤ 77 := by
    obtain ⟨is, hbuf, -, -, hlen, -⟩ := completedAttemptsAreWellFormedAndWithinBudget u _ hone hfive hok
    rw [hbuf, List.length_map]
    exact hlen
  have hfits := fits_of_capacityAtLeast (hk.cfg ▸ hcap) hlen
  have stored : performFill s =
      { ((fillSlot s).storeSlot (fillSlot s).buf).endFill with phase := .runStart .low } :=
    (performFill_of_storing hstoring).trans (storeProgram_of_fits hfits)
  have hget (k : Fin 128) :
      (performFill s).slots.get k = if k = s.slot then some (fillSlot s).buf else s.slots.get k := by
    rw [stored, ← hk.slot, ← hk.slots]
    exact storeSlot_get _ _ k
  refine ⟨by rw [stored], ?_, fun k hne => ?_, fun hp => (reachesWithin_performFill hp).reaches⟩
  · rw [hget, if_pos rfl]
  · rw [hget, if_neg hne]

end Sys2Proof.Machine
end

section
/-! The acceptance of a request and the storing of a program, what a step answers the host, and the steps that
stop the model. -/

namespace Sys2Proof.Machine

/-! ## The acceptance of a request -/

theorem step_of_idle {s : State} (h : s.phase = .idle) : step s = .next (acceptRequest s) := by
  rw [step, h]

/-- An accepted `NEW` (R232, R271). -/
theorem acceptRequest_new {s : State} {c : Configuration} {block : List Word} {rest : List Request}
    (h : s.requests = .new c block :: rest) :
    acceptRequest s = { s with requests := rest }.construct c block := by
  rw [acceptRequest, h]

/-- An accepted `EVALUATE` whose slot is empty (R221 step 2). -/
theorem acceptRequest_of_empty {s : State} {v : DWord} {rest : List Request}
    (h : s.requests = .evaluate v :: rest) (hslot : s.slots.get (slotOf v) = none) :
    acceptRequest s = { s with requests := rest, value := v, phase := .fillStart } := by
  rw [acceptRequest, h]
  exact if_neg (Option.not_isSome_iff_eq_none.mpr hslot)

/-- An accepted `EVALUATE` whose slot is valid (R221 step 3). -/
theorem acceptRequest_of_filled {s : State} {v : DWord} {rest : List Request}
    (h : s.requests = .evaluate v :: rest) (hslot : s.slots.get (slotOf v) ≠ none) :
    acceptRequest s = { s with requests := rest, value := v, phase := .runStart .low } := by
  rw [acceptRequest, h]
  exact if_pos (Option.isSome_iff_ne_none.mpr hslot)

/-- Settles O24: an accepted `NEW` is a construction, whose seed block reads back the words given. -/
theorem newLatchesTheConfigurationAndEmptiesTheStore :
    Obligations.NewLatchesTheConfigurationAndEmptiesTheStore := by
  intro s c block rest hidle hreq
  exact ⟨_, (step_of_idle hidle).trans (congrArg _ (acceptRequest_new hreq)), rfl, rfl,
    new_get c (.ofWords block), rfl, ofWords_read block, rfl, rfl⟩

/-- Settles O25: the slot of the statement is `slotOf v`. -/
theorem evaluateIsAcceptedAndSelectsItsSlot : Obligations.EvaluateIsAcceptedAndSelectsItsSlot := by
  intro s v rest hidle hreq k hk
  obtain rfl : k = slotOf v := Fin.ext hk
  exact ⟨fun hempty => (step_of_idle hidle).trans (congrArg _ (acceptRequest_of_empty hreq hempty)),
    fun hfilled => (step_of_idle hidle).trans (congrArg _ (acceptRequest_of_filled hreq hfilled))⟩

/-! ## The storing of a program -/

theorem fits_iff (cap : Option Nat) (len : Nat) : fits cap len = true ↔ ∀ c, cap = some c → len ≤ c := by
  cases cap <;> simp [fits]

theorem storeProgram_of_not_fits {s : State} (h : fits s.cfg.progCap s.buf.length ≠ true) :
    storeProgram s = s.takeFault (.slotOverflow s.slot s.buf.length) :=
  if_neg h

/-- Settles O44: the two sides of `PROG_CAP`'s test. -/
theorem storingFillsTheSlotOrOverflows : Obligations.StoringFillsTheSlotOrOverflows := by
  intro s hphase
  refine ⟨fun hcap => ?fits, fun c hc hlong => ?overflows⟩
  case fits =>
    have stored := storeProgram_of_fits ((fits_iff _ _).mpr hcap)
    refine ⟨_, (step_of_storing hphase).trans (congrArg _ stored), rfl, ?_, fun k hk => ?_⟩
    · exact (storeSlot_get s s.buf s.slot).trans (if_pos rfl)
    · exact (storeSlot_get s s.buf k).trans (if_neg hk)
  case overflows =>
    have hfits : fits s.cfg.progCap s.buf.length ≠ true := fun h => hlong.not_ge ((fits_iff _ _).mp h c hc)
    exact (step_of_storing hphase).trans (congrArg _ (storeProgram_of_not_fits hfits))

/-! ## What a step answers -/

/-- From `s` to `t` the host is answered nothing, or it is answered once and the core is idle (R220, R246). -/
def AnswersAtMostOnce (s t : State) : Prop :=
  t.responses = s.responses ∨ (t.phase = .idle ∧ ∃ r, t.responses = s.responses ++ [r])

theorem AnswersAtMostOnce.takeFault {s u : State} (h : u.responses = s.responses) (f : FaultRecord) :
    AnswersAtMostOnce s (u.takeFault f) :=
  .inr ⟨rfl, .fault f, by rw [State.takeFault_responses, h]⟩

/-- A piece of an attempt answers only where its fill fails with it (R201). -/
theorem settle_answersAtMostOnce {s : State} {e : Emit} (h : e.state.responses = s.responses) :
    AnswersAtMostOnce s (settle e) := by
  cases e with
  | ok t => exact .inl h
  | abandoned t =>
    by_cases hr : t.rounds ≤ 1
    · rw [settle, abandonAttempt_of_le hr]
      exact .takeFault h _
    · rw [settle, abandonAttempt_of_ge (by omega)]
      exact .inl h
  | lookupFailed base residue t => exact .takeFault h _

theorem emitStep_answersAtMostOnce {s t : State} (h : emitStep s = .next t) : AnswersAtMostOnce s t := by
  obtain ⟨-, rfl⟩ | ⟨a, rest, e, -, he, rfl⟩ := emitStep_cases h
  · exact settle_answersAtMostOnce (closeAttempt_frame s).responses
  · exact settle_answersAtMostOnce he.frame.responses

theorem storeProgram_answersAtMostOnce (s : State) : AnswersAtMostOnce s (storeProgram s) := by
  obtain ⟨-, e⟩ | e := storeProgram_cases (s := s) rfl
  · exact .inl (e ▸ rfl)
  · exact e ▸ .takeFault rfl _

theorem startRun_responses (half : RunHalf) (s : State) : (startRun half s).responses = s.responses := by
  obtain ⟨acc, freeCount, e⟩ := startRun_form half s
  rw [e]

theorem runStep_answersAtMostOnce {half : RunHalf} {s t : State} (h : runStep half s = .next t) :
    AnswersAtMostOnce s t := by
  obtain ⟨p, -, rfl | ⟨w, -, -, hw⟩⟩ := runStep_cases h
  · cases half with
    | low => exact .inl rfl
    | high => exact .inr ⟨rfl, _, rfl⟩
  · obtain ⟨acc, ctx, pc, rfl⟩ | ⟨f, rfl⟩ := execWord_answersIu w s t hw
    · exact .inl rfl
    · exact .takeFault rfl f

theorem acceptRequest_responses (s : State) : (acceptRequest s).responses = s.responses := by
  obtain ⟨-, e⟩ | ⟨c, block, rest, -, e⟩ | ⟨v, rest, -, ⟨-, e⟩ | ⟨-, e⟩⟩ := acceptRequest_cases (s := s) rfl
  · rw [e]
  · rw [e, State.construct]
  · rw [e]
  · rw [e]

theorem step_answersAtMostOnce {s t : State} (h : step s = .next t) : AnswersAtMostOnce s t := by
  unfold step at h
  cases hp : s.phase with
  | idle => rw [hp] at h; cases h; exact .inl (acceptRequest_responses s)
  | fillStart => rw [hp] at h; cases h; exact .inl rfl
  | attemptStart => rw [hp] at h; cases h; exact settle_answersAtMostOnce (startAttempt_frame s).responses
  | emitting => rw [hp] at h; exact emitStep_answersAtMostOnce h
  | storing => rw [hp] at h; cases h; exact storeProgram_answersAtMostOnce s
  | runStart half => rw [hp] at h; cases h; exact .inl (startRun_responses half s)
  | running half => rw [hp] at h; exact runStep_answersAtMostOnce h

/-- Settles O50: each phase's step answers at most once, and the acceptance of a request answers nothing. -/
theorem aStepAnswersAtMostOnceAndThenIdles : Obligations.AStepAnswersAtMostOnceAndThenIdles := by
  intro s t h
  by_cases hidle : s.phase = .idle
  · obtain rfl := step_idle hidle h
    exact .inl (acceptRequest_responses s)
  · exact (step_answersAtMostOnce h).imp_right fun ⟨hphase, hr⟩ => ⟨hidle, hphase, hr⟩

/-! ## Steps that never stop the model -/

/-- The grammar has every activation at a step its point allows (R190, R194). -/
theorem perform_of_leastStep_le {a : Activation} (h : a.leastStep ≤ a.step) (s : State) :
    ∃ e, perform a s = some e :=
  match a, h with
  | .inner 1, _ | .inner (_ + 2), _ | .innerTail _, _ => ⟨_, rfl⟩
  | .subroutine 1, _ | .subroutine (_ + 2), _ | .subroutineMid (_ + 2), _ | .subroutineTail _, _ => ⟨_, rfl⟩

theorem emitStep_of_activationsOk {s : State} {rounds : Nat} (h : activationsOk rounds s.acts = true) :
    ∃ t, emitStep s = .next t := by
  unfold emitStep
  split
  · exact ⟨_, rfl⟩
  · rename_i a rest ha
    rw [ha] at h
    obtain ⟨e, he⟩ := perform_of_leastStep_le ((activationsOk_cons rounds a rest).mp h).1 { s with acts := rest }
    rw [he]
    exact ⟨_, rfl⟩

/-- A run of a valid slot ends or performs its next word with a live context slot (R24, R57, R165). -/
theorem runStep_of_program {s : State} {p : Program} (half : RunHalf) (hp : s.program? = some p) :
    ∃ t, runStep half s = .next t := by
  by_cases hend : s.ctx = [] ∨ p.length ≤ s.pc
  · exact ⟨_, runStep_of_ended half hp hend⟩
  · obtain ⟨hctx, hpc⟩ := not_or.mp hend
    rw [runStep_of_word half hp hctx (List.getElem?_eq_getElem (Nat.lt_of_not_le hpc))]
    obtain ⟨acc, ctx, pc, e, -⟩ | ⟨f, e⟩ := execWord_cases p[s.pc] s hctx
    · exact ⟨_, e⟩
    · exact ⟨_, e⟩

/-- Settles O53: only the steps of an activation and of a run can stop, and the invariant gives the one its
least step and the other its program. -/
theorem noStepStopsTheModel : Obligations.NoStepStopsTheModel := by
  intro s hinv
  have hok := hinv.phaseOk
  unfold step
  cases hp : s.phase with
  | idle | fillStart | attemptStart | storing | runStart half => exact ⟨_, rfl⟩
  | emitting =>
    obtain ⟨-, -, -, hacts, -⟩ := (State.phaseOk_emitting hp).mp hok
    exact emitStep_of_activationsOk hacts
  | running half =>
    obtain ⟨⟨p, hprog, -⟩, -⟩ := (State.phaseOk_running hp).mp hok
    exact runStep_of_program half hprog

end Sys2Proof.Machine
end

section
/-! The two runs of a transaction: how the pass over the program ends in each, what they answer, the machine's
steps that perform them, and why a program of FE's shape answers a result. -/

namespace Sys2Proof.Machine

/-! ## The end of a pass -/

/-- The pass of one run over the slot's program, from the start state of the run (R165). -/
def State.pass (half : RunHalf) (s : State) : State := runWords (s.program?.getD []) (startRun half s)

/-- What follows a pass: nothing after a fault, else the end of the run (R166, R246). -/
def endPass (half : RunHalf) (t : State) : State := if t.phase = .idle then t else finishRun half t

theorem performRun_eq (half : RunHalf) (s : State) : performRun half s = endPass half (s.pass half) := rfl

theorem endPass_of_live {half : RunHalf} {t : State} (h : t.phase ≠ .idle) : endPass half t = finishRun half t :=
  if_neg h

theorem endPass_of_idle {half : RunHalf} {t : State} (h : t.phase = .idle) : endPass half t = t := if_pos h

/-- A state of a run that started in `s`: only IU's registers, the phase and the count of free values differ. -/
def State.inRun (half : RunHalf) (acc : Word) (ctx : List Word) (pc freeCount : Nat) (s : State) : State :=
  { s with
    inp := runInput half s.value, phase := .running half, acc := acc, ctx := ctx, pc := pc,
    freeCount := freeCount }

/-- How a pass begun in `s` ends: live with its result in `acc`, or with a fault taken (R163, R164, R246). -/
inductive PassEnds (half : RunHalf) (s : State) : Except FaultRecord Word → State → Prop where
  | live (acc : Word) (ctx : List Word) (pc freeCount : Nat) :
      PassEnds half s (.ok acc) (s.inRun half acc ctx pc freeCount)
  | faulted (f : FaultRecord) (acc : Word) (ctx : List Word) (pc freeCount : Nat) :
      PassEnds half s (.error f) ((s.inRun half acc ctx pc freeCount).takeFault f)

theorem startRun_written (half : RunHalf) (s : State) (acc : Word) (ctx : List Word) (pc : Nat) :
    { startRun half s with acc := acc, ctx := ctx, pc := pc } =
      s.inRun half acc ctx pc (startRun half s).freeCount := by
  obtain ⟨acc₀, freeCount, e⟩ := startRun_form half s
  rw [e, State.inRun]

theorem PassEnds.of_write (half : RunHalf) (s : State) (acc : Word) (ctx : List Word) (pc : Nat) :
    PassEnds half s (.ok acc) { startRun half s with acc := acc, ctx := ctx, pc := pc } :=
  startRun_written half s acc ctx pc ▸ .live acc ctx pc _

theorem PassEnds.of_takeFault (half : RunHalf) (s : State) (acc : Word) (ctx : List Word) (pc : Nat)
    (f : FaultRecord) :
    PassEnds half s (.error f)
      (State.takeFault { startRun half s with acc := acc, ctx := ctx, pc := pc } f) :=
  startRun_written half s acc ctx pc ▸ .faulted f acc ctx pc _

theorem pass_ends (half : RunHalf) (s : State) : ∃ o, PassEnds half s o (s.pass half) := by
  have hctx : (startRun half s).ctx ≠ [] := by simp [startRun_ctx]
  obtain ⟨acc, ctx, pc, e | ⟨f, e⟩⟩ := runWords_form (s.program?.getD []) (startRun half s) hctx
  · rw [State.pass, e]
    exact ⟨_, .of_write half s acc ctx pc⟩
  · rw [State.pass, e]
    exact ⟨_, .of_takeFault half s acc ctx pc f⟩

/-- A pass that leaves the core live ends with a result. -/
theorem PassEnds.exists_ok {half : RunHalf} {s t : State} {o : Except FaultRecord Word} (h : PassEnds half s o t)
    (hlive : t.phase ≠ .idle) : ∃ acc, o = .ok acc := by
  cases h with
  | live acc ctx pc freeCount => exact ⟨acc, rfl⟩
  | faulted f acc ctx pc freeCount => exact absurd rfl hlive

/-! ## What the runs answer -/

section Runs

variable {s : State} {half : RunHalf}

theorem performRun_of_fault {f : FaultRecord} (h : PassEnds half s (.error f) (s.pass half)) :
    (performRun half s).phase = .idle ∧ (performRun half s).responses = s.responses ++ [.fault f] := by
  rw [performRun_eq]
  generalize s.pass half = t at h
  cases h
  exact ⟨rfl, rfl⟩

theorem performRun_low_of_ok {lo : Word} (h : PassEnds .low s (.ok lo) (s.pass .low)) :
    (performRun .low s).phase = .runStart .high ∧ (performRun .low s).responses = s.responses ∧
      (performRun .low s).resultLo = lo := by
  rw [performRun_eq]
  generalize s.pass .low = t at h
  cases h
  exact ⟨rfl, rfl, rfl⟩

theorem performRun_high_of_ok {hi : Word} (h : PassEnds .high s (.ok hi) (s.pass .high)) :
    (performRun .high s).phase = .idle ∧
      (performRun .high s).responses = s.responses ++ [.ok (packResult hi s.resultLo)] := by
  rw [performRun_eq]
  generalize s.pass .high = t at h
  cases h
  exact ⟨rfl, rfl⟩

theorem performRun_requests (half : RunHalf) (s : State) : (performRun half s).requests = s.requests := by
  obtain ⟨o, h⟩ := pass_ends half s
  rw [performRun_eq]
  generalize s.pass half = t at h
  cases h with
  | live acc ctx pc freeCount => cases half <;> rfl
  | faulted f acc ctx pc freeCount => rfl

end Runs

/-- The answer of a transaction whose two passes end so (R225, R226): the first fault, or the packed result. -/
def answerOf : Except FaultRecord Word → Except FaultRecord Word → Response
  | .error f, _ => .fault f
  | .ok _, .error f => .fault f
  | .ok lo, .ok hi => .ok (packResult hi lo)

theorem performRuns_of_idle {s : State} (h : (performRun .low s).phase = .idle) :
    performRuns s = performRun .low s := if_pos h

theorem performRuns_of_live {s : State} (h : (performRun .low s).phase ≠ .idle) :
    performRuns s = performRun .high (performRun .low s) := if_neg h

/-- The two runs answer once, as their passes end, and leave the core idle (R220, R225, R226). -/
theorem performRuns_answer {s : State} {lo hi : Except FaultRecord Word}
    (hlo : PassEnds .low s lo (s.pass .low))
    (hhi : PassEnds .high (performRun .low s) hi ((performRun .low s).pass .high)) :
    (performRuns s).phase = .idle ∧ (performRuns s).responses = s.responses ++ [answerOf lo hi] := by
  cases lo with
  | error f =>
    have fault := performRun_of_fault hlo
    rw [performRuns_of_idle fault.1]
    exact fault
  | ok lo =>
    obtain ⟨hphase, hresponses, hlow⟩ := performRun_low_of_ok hlo
    rw [performRuns_of_live (by simp [hphase]), ← hresponses]
    cases hi with
    | error f => exact performRun_of_fault hhi
    | ok hi =>
      have result := performRun_high_of_ok hhi
      rwa [hlow] at result

theorem performRuns_answers (s : State) :
    (performRuns s).phase = .idle ∧ ∃ r, (performRuns s).responses = s.responses ++ [r] := by
  obtain ⟨lo, hlo⟩ := pass_ends .low s
  obtain ⟨hi, hhi⟩ := pass_ends .high (performRun .low s)
  exact (performRuns_answer hlo hhi).imp_right fun h => ⟨_, h⟩

theorem performRuns_requests (s : State) : (performRuns s).requests = s.requests := by
  by_cases h : (performRun .low s).phase = .idle
  · rw [performRuns_of_idle h, performRun_requests]
  · rw [performRuns_of_live h, performRun_requests, performRun_requests]

/-! ## The machine performs the runs -/

/-- From a live state of a run the machine's steps make the pass over the words from `pc` on, and the end of
the run (R165). -/
theorem reaches_endPass {half : RunHalf} {p : Program} (ws : List IWord) :
    ∀ s : State, s.phase = .running half → s.program? = some p → s.ctx ≠ [] → p.drop s.pc = ws →
      Reaches s (endPass half (runWords ws s)) := by
  induction ws with
  | nil =>
    intro s hphase hp hctx hws
    rw [runWords, endPass_of_live (by simp [hphase])]
    exact .one (step_of_ended hphase hp (.inr (List.drop_eq_nil_iff.mp hws)))
  | cons w ws ih =>
    intro s hphase hp hctx hws
    have hw : p[s.pc]? = some w := by rw [← List.head?_drop, hws]; rfl
    have hstep : step s = execWord w s := (step_running hphase).trans (runStep_of_word half hp hctx hw)
    obtain ⟨acc, ctx, pc, e, hpc, -⟩ | ⟨f, e⟩ := execWord_cases w s hctx
    · have first := Reaches.one (hstep.trans e)
      rw [runWords_cons_of_next e]
      by_cases hhalt : ctx = []
      · rw [if_pos (.inr (by simp [State.sp, hhalt])), endPass_of_live (by simp [hphase])]
        exact first.trans (.one (step_of_ended hphase hp (.inl hhalt)))
      · obtain rfl : pc = s.pc + 1 := hpc.resolve_right fun h => hhalt h.1
        rw [if_neg (by simp [State.sp, hphase, hhalt])]
        refine first.trans (ih _ hphase hp hhalt ?_)
        rw [← List.tail_drop, hws, List.tail_cons]
    · rw [runWords_cons_of_next e, if_pos (.inl (State.takeFault_phase s f)),
        endPass_of_idle (State.takeFault_phase s f)]
      exact .one (hstep.trans e)

theorem startRun_phase (half : RunHalf) (s : State) : (startRun half s).phase = .running half := by
  obtain ⟨acc, freeCount, e⟩ := startRun_form half s
  rw [e]

theorem startRun_pc (half : RunHalf) (s : State) : (startRun half s).pc = 0 := by
  obtain ⟨acc, freeCount, e⟩ := startRun_form half s
  rw [e]

theorem reaches_performRun {half : RunHalf} {s : State} (hphase : s.phase = .runStart half)
    (hp : s.program?.isSome = true) : Reaches s (performRun half s) := by
  obtain ⟨p, hp⟩ := Option.isSome_iff_exists.mp hp
  have hstart := Reaches.one (step_runStart hphase)
  have hpass := reaches_endPass p (startRun half s) (startRun_phase half s)
    ((startRun_keeps half s).program.trans hp) (by simp [startRun_ctx]) (by rw [startRun_pc, List.drop_zero])
  rw [performRun_eq, State.pass, hp]
  exact hstart.trans hpass

/-- The low run, and the high run unless a fault has ended the transaction (R225). -/
theorem reaches_performRuns {s : State} (hphase : s.phase = .runStart .low) (hp : s.program?.isSome = true) :
    Reaches s (performRuns s) := by
  have low := reaches_performRun hphase hp
  obtain ⟨lo, hlo⟩ := pass_ends .low s
  cases lo with
  | error f => exact performRuns_of_idle (performRun_of_fault hlo).1 ▸ low
  | ok lo =>
    have hhigh := (performRun_low_of_ok hlo).1
    rw [performRuns_of_live (by simp [hhigh])]
    exact low.trans (reaches_performRun hhigh ((performRun_keeps .low s).program ▸ hp))

/-! ## Programs of FE's shape -/

/-- The word goes on to the next one with as many context slots. -/
def GoesOn (i : Instr) (s : State) : Prop :=
  ∃ acc ctx, exec i s = .next { s with acc := acc, ctx := ctx, pc := s.pc + 1 } ∧ ctx.length = s.ctx.length

/-- A word that FE makes and that is neither SUBROUTINE nor RETURN goes on: every index it can present is below
1024 (R53, R188, R192, R228). -/
theorem goesOn_of_selectedWord {i : Instr} (h : SelectedWord i) {s : State} (hctx : s.ctx ≠ [])
    (hlen : 1024 ≤ s.seed.len) : GoesOn i s := by
  obtain ⟨top, below, hc⟩ := List.exists_cons_of_ne_nil hctx
  have write (v : Word) (e : exec i s = .next (s.withAcc v)) : GoesOn i s := ⟨v, s.ctx, e, rfl⟩
  have load (a : Word) (ha : a.toNat ≤ 0x3FF) (e : exec i s = loadWord a s) : GoesOn i s := by
    obtain ⟨w, hw⟩ := SeedBlock.read_of_lt (show a.toNat < s.seed.len by omega)
    exact write w (e.trans (loadWord_some hw))
  have combine (f : Word → Word → Word) (e : exec i s = combineTop f s) : GoesOn i s :=
    write _ (e.trans (combineTop_cons hc))
  have hmade := h.feMade
  cases i with
  | subroutine => exact absurd rfl h.ne_subroutine
  | ret => exact absurd rfl h.ne_ret
  | loadFromBuffer imm => exact load imm (of_decide_eq_true hmade) rfl
  | loadFromBufferIndirect imm =>
    obtain rfl : imm = 0x3FF := eq_of_beq hmade
    exact load _ (and_mask_le s.acc) rfl
  | saveToContext => exact ⟨s.acc, s.acc :: below, by simp [exec, execSaveToContext_cons hc], by rw [hc]; rfl⟩
  | addContext | subtractContext | multiplyContext => exact combine _ rfl
  | subtractFromContext => exact combine (fun acc top => top - acc) rfl
  | shlContext => exact combine (fun acc top => acc <<< shiftCount top) rfl
  | shrContext => exact combine (fun acc top => acc >>> shiftCount top) rfl
  | loadArg | loadInput | addArg | subtractArg | addOne | subtractOne | bitwiseNot | bitwiseXor | negate
  | shuffle => exact write _ rfl

/-- A live run with `d` scopes open below the initial slot, under the conditions of R228. -/
structure InScopes (d : Nat) (s : State) : Prop where
  live : s.phase ≠ .idle
  slots : s.ctx.length = d + 1
  seedLen : 1024 ≤ s.seed.len
  depth : capacityAtLeast 5 s.cfg.ctxDepth = true

namespace InScopes

variable {d e : Nat} {s : State}

theorem ctx_ne_nil (h : InScopes d s) : s.ctx ≠ [] := List.ne_nil_of_length_eq_add_one h.slots

theorem write (h : InScopes d s) (acc : Word) {ctx : List Word} (pc : Nat) (hctx : ctx.length = e + 1) :
    InScopes e { s with acc := acc, ctx := ctx, pc := pc } :=
  ⟨h.live, hctx, h.seedLen, h.depth⟩

/-- A word that hands the run on. -/
theorem runWords_cons {t : State} {i : Instr} (ht : InScopes e t) (h : exec i s = .next t) (ws : List IWord) :
    runWords (encode i :: ws) s = runWords ws t := by
  rw [runWords_cons_of_next ((execWord_encode i s).trans h), if_neg]
  simp [State.sp, ht.live, ht.ctx_ne_nil]

/-- At most four open scopes leave room for a fifth slot (R161, R228). -/
theorem exec_subroutine (h : InScopes d s) (hd : d < 4) : exec .subroutine s = .next s.pushSlot := by
  refine execSubroutine_of_room fun hfull => ?_
  have hdepth : 5 ≤ s.sp := by simpa [hfull, capacityAtLeast] using h.depth
  have hslots : s.sp = d + 1 := h.slots
  omega

/-- RETURN closes an open scope (R162). -/
theorem exec_ret (h : InScopes (d + 1) s) : ∃ ctx, exec .ret s = .next { s with ctx := ctx, pc := s.pc + 1 } ∧
    ctx.length = d + 1 := by
  have hslots := h.slots
  match hc : s.ctx, hslots with
  | top :: next :: below, hslots => exact ⟨next :: below, execRet_cons_cons hc, Nat.succ.inj hslots⟩

/-- With no scope open RETURN halts the run, which is live (R163). -/
theorem runWords_ret (h : InScopes 0 s) : (runWords [encode .ret] s).phase ≠ .idle := by
  obtain ⟨top, hc⟩ := List.length_eq_one_iff.mp h.slots
  rw [runWords_cons_of_next ((execWord_encode .ret s).trans (execRet_singleton hc)), if_pos (.inr rfl)]
  exact h.live

end InScopes

/-- Words that FE makes, closing every open scope, run without a fault up to the halting RETURN (R79, R228). -/
theorem runWords_live_of_scopes (is : List Instr) :
    ∀ {d : Nat} {s : State}, InScopes d s → scopesAfter d is = some 0 → is.all Instr.feMade = true →
      (runWords ((is ++ [Instr.ret]).map encode) s).phase ≠ .idle := by
  induction is with
  | nil =>
    intro d s h hscopes _
    cases hscopes
    exact h.runWords_ret
  | cons i is ih =>
    intro d s h hscopes hmade
    obtain ⟨hi, his⟩ : i.feMade = true ∧ is.all Instr.feMade = true := by simpa using hmade
    rw [List.cons_append, List.map_cons]
    by_cases hsub : i = .subroutine
    · subst hsub
      obtain ⟨hd, hscopes⟩ : d < 4 ∧ scopesAfter (d + 1) is = some 0 := by simpa [scopesAfter] using hscopes
      have pushed : InScopes (d + 1) s.pushSlot := h.write _ _ (congrArg (· + 1) h.slots)
      rw [pushed.runWords_cons (h.exec_subroutine hd)]
      exact ih pushed hscopes his
    · by_cases hret : i = .ret
      · subst hret
        cases d with
        | zero => cases hscopes
        | succ d =>
          obtain ⟨ctx, he, hctx⟩ := h.exec_ret
          have popped : InScopes d { s with ctx := ctx, pc := s.pc + 1 } := h.write _ _ hctx
          rw [popped.runWords_cons he]
          exact ih popped hscopes his
      · obtain ⟨acc, ctx, he, hctx⟩ := goesOn_of_selectedWord ⟨hi, hsub, hret⟩ h.ctx_ne_nil h.seedLen
        have next := h.write acc (s.pc + 1) (hctx.trans h.slots)
        rw [scopesAfter_of_ne hsub hret] at hscopes
        rw [next.runWords_cons he]
        exact ih next hscopes his

theorem programWellFormed_iff (is : List Instr) :
    programWellFormed is = true ↔
      ∃ js, is = js ++ [.ret] ∧ js.all Instr.feMade = true ∧ scopesAfter 0 js = some 0 := by
  constructor
  · intro h
    obtain ⟨⟨hmade, hlast⟩, hscopes⟩ : (is.all Instr.feMade = true ∧ is.getLast? = some .ret) ∧
        scopesAfter 0 is.dropLast = some 0 := by simpa [programWellFormed] using h
    obtain ⟨js, rfl⟩ := List.getLast?_eq_some_iff.mp hlast
    simp only [List.all_append, Bool.and_eq_true] at hmade
    exact ⟨js, rfl, hmade.1, by simpa using hscopes⟩
  · rintro ⟨js, rfl, hmade, hscopes⟩
    simp [programWellFormed, hmade, hscopes, Instr.feMade]

theorem pass_of_feProgram {s : State} (half : RunHalf) (h : s.FeProgram) (hlen : 1024 ≤ s.seed.len)
    (hdepth : capacityAtLeast 5 s.cfg.ctxDepth = true) :
    ∃ acc, PassEnds half s (.ok acc) (s.pass half) := by
  obtain ⟨is, hp, hwf⟩ := h
  obtain ⟨js, rfl, hmade, hscopes⟩ := (programWellFormed_iff is).mp hwf
  have hk := startRun_keeps half s
  obtain ⟨o, hends⟩ := pass_ends half s
  have begun : InScopes 0 (startRun half s) :=
    ⟨by simp [startRun_phase], by rw [startRun_ctx]; rfl, hk.seed ▸ hlen, hk.cfg ▸ hdepth⟩
  have hlive : (s.pass half).phase ≠ .idle := by
    rw [State.pass, hp]
    exact runWords_live_of_scopes js begun hscopes hmade
  obtain ⟨acc, rfl⟩ := hends.exists_ok hlive
  exact ⟨acc, hends⟩

/-- Settles O47: neither pass faults, and the low run leaves the program, the seed block and the configuration
to the high run. -/
theorem feProgramsNeverFault : Obligations.FeProgramsNeverFault := by
  intro s hfe hlen hdepth
  have hk := performRun_keeps .low s
  have hfe' : (performRun .low s).FeProgram := by rwa [State.FeProgram, hk.program]
  obtain ⟨lo, hlo⟩ := pass_of_feProgram .low hfe hlen hdepth
  obtain ⟨hi, hhi⟩ := pass_of_feProgram .high hfe' (hk.seed ▸ hlen) (hk.cfg ▸ hdepth)
  obtain ⟨hphase, hresponses⟩ := performRuns_answer hlo hhi
  exact ⟨packResult hi lo, hresponses, hphase⟩

end Sys2Proof.Machine
end

section
/-! A whole `EVALUATE`: how its fill ends, what it answers, what it leaves unchanged, and the machine's steps
that perform it. -/

namespace Sys2Proof.Machine

/-! ## The answer of a fill -/

/-- The first word that is not SUBROUTINE is a load, which does not read the accumulator (R207). -/
def LoadsFirst (p : Program) : Prop :=
  ∃ (n : Nat) (i : Instr) (rest : Program), i.isFinal = true ∧
    p = List.replicate n (encode .subroutine) ++ encode i :: rest

/-- A fill that hands a program over has answered nothing, and the program loads before it reads. -/
theorem FillEnds.of_storing {s f : State} (h : FillEnds s f) (hp : f.phase = .storing) :
    f.responses = s.responses ∧ LoadsFirst f.buf := by
  cases h with
  | returned hu hone hfive h =>
    exact ⟨(hu.attempt h).responses, completedProgramsLoadBeforeTheyRead _ _ h⟩
  | exhausted hu hone h => cases hp
  | lookupFailed hu h => cases hp

/-- How the fill of `s` and its storing end in `t` (R221 step 2, R223, R227): the program is stored and the low
run is next, or the host has the fault and the core is idle. -/
inductive FillAnswers (s t : State) : Except FaultRecord Program → Prop where
  | stored {p : Program} (hphase : t.phase = .runStart .low) (hprogram : t.program? = some p)
      (hresponses : t.responses = s.responses) (hloads : LoadsFirst p) : FillAnswers s t (.ok p)
  | failed {f : FaultRecord} (hphase : t.phase = .idle) (hresponses : t.responses = s.responses ++ [.fault f]) :
      FillAnswers s t (.error f)

theorem performFill_of_idle {s : State} (h : (fillSlot s).phase = .idle) : performFill s = fillSlot s := if_pos h

/-- A returned program that fits is stored. -/
theorem performFill_of_fits {s : State} (hphase : (fillSlot s).phase = .storing)
    (hfits : fits s.cfg.progCap (fillSlot s).buf.length = true) :
    FillAnswers s (performFill s) (.ok (fillSlot s).buf) := by
  obtain ⟨hresponses, hloads⟩ := (fillEnds_fillSlot s).of_storing hphase
  rw [performFill_of_storing hphase, storeProgram_of_fits ((fillSlot_keeps s).cfg ▸ hfits)]
  exact .stored rfl (storeSlot_program _ _) hresponses hloads

/-- A returned program that does not fit is not stored (R245). -/
theorem performFill_of_not_fits {s : State} (hphase : (fillSlot s).phase = .storing)
    (hfits : fits s.cfg.progCap (fillSlot s).buf.length ≠ true) :
    FillAnswers s (performFill s) (.error (.slotOverflow s.slot (fillSlot s).buf.length)) := by
  obtain ⟨hresponses, -⟩ := (fillEnds_fillSlot s).of_storing hphase
  have hk := fillSlot_keeps s
  rw [performFill_of_storing hphase, storeProgram_of_not_fits (hk.cfg ▸ hfits), hk.slot]
  exact .failed rfl (by rw [State.takeFault_responses, hresponses])

theorem performFill_answers (s : State) : ∃ o, FillAnswers s (performFill s) o := by
  obtain hphase | ⟨hidle, -, hfault⟩ := (fillEnds_fillSlot s).returned_or_fault
  · by_cases hfits : fits s.cfg.progCap (fillSlot s).buf.length = true
    · exact ⟨_, performFill_of_fits hphase hfits⟩
    · exact ⟨_, performFill_of_not_fits hphase hfits⟩
  · rw [performFill_of_idle hidle]
    obtain h | ⟨base, residue, -, h⟩ := hfault
    · exact ⟨_, .failed hidle h⟩
    · exact ⟨_, .failed hidle h⟩

/-! ## The cases of an `EVALUATE` -/

/-- The operand of an accepted `EVALUATE` in the request register (R37, R221 step 1). -/
def State.withValue (v : DWord) (s : State) : State := { s with value := v }

theorem evaluate_of_filled {s : State} {v : DWord} (h : s.slots.get (slotOf v) ≠ none) :
    evaluate v s = performRuns (s.withValue v) :=
  if_pos (Option.isSome_iff_ne_none.mpr h)

theorem evaluate_of_empty {s : State} {v : DWord} (h : s.slots.get (slotOf v) = none) :
    evaluate v s =
      if (performFill (s.withValue v)).phase = .idle then performFill (s.withValue v)
      else performRuns (performFill (s.withValue v)) :=
  if_neg (Option.not_isSome_iff_eq_none.mpr h)

theorem evaluate_of_failed {s : State} {v : DWord} {f : FaultRecord} (h : s.slots.get (slotOf v) = none)
    (hfill : FillAnswers (s.withValue v) (performFill (s.withValue v)) (.error f)) :
    evaluate v s = performFill (s.withValue v) := by
  cases hfill with
  | failed hphase hresponses => rw [evaluate_of_empty h, if_pos hphase]

theorem evaluate_of_stored {s : State} {v : DWord} {p : Program} (h : s.slots.get (slotOf v) = none)
    (hfill : FillAnswers (s.withValue v) (performFill (s.withValue v)) (.ok p)) :
    evaluate v s = performRuns (performFill (s.withValue v)) := by
  cases hfill with
  | stored hphase hprogram hresponses hloads => rw [evaluate_of_empty h, if_neg (by simp [hphase])]

/-- An `EVALUATE` answers once and leaves the core idle (R220). -/
theorem evaluate_answers (v : DWord) (s : State) :
    (evaluate v s).phase = .idle ∧ ∃ r, (evaluate v s).responses = s.responses ++ [r] := by
  by_cases hslot : s.slots.get (slotOf v) = none
  · obtain ⟨o, hfill⟩ := performFill_answers (s.withValue v)
    cases o with
    | error f =>
      rw [evaluate_of_failed hslot hfill]
      cases hfill with
      | failed hphase hresponses => exact ⟨hphase, _, hresponses⟩
    | ok p =>
      rw [evaluate_of_stored hslot hfill]
      cases hfill with
      | stored hphase hprogram hresponses hloads =>
        exact hresponses ▸ performRuns_answers (performFill (s.withValue v))
  · rw [evaluate_of_filled hslot]
    exact performRuns_answers (s.withValue v)

/-! ## The machine performs an `EVALUATE` -/

/-- A run starts alike at every point of a transaction. -/
theorem performRuns_withPhase (s : State) (p : Phase) : performRuns { s with phase := p } = performRuns s := rfl

theorem performFill_withPhase (s : State) (p : Phase) : performFill { s with phase := p } = performFill s := rfl

/-- From an empty slot the fill comes first (R221 step 2). -/
theorem reaches_evaluate_of_empty {s : State} {v : DWord} (h : s.slots.get (slotOf v) = none) :
    Reaches { s.withValue v with phase := .fillStart } (evaluate v s) := by
  have filled : Reaches { s.withValue v with phase := .fillStart } (performFill (s.withValue v)) :=
    performFill_withPhase (s.withValue v) .fillStart ▸ (reachesWithin_performFill rfl).reaches
  obtain ⟨o, hfill⟩ := performFill_answers (s.withValue v)
  cases o with
  | error f =>
    rw [evaluate_of_failed h hfill]
    exact filled
  | ok p =>
    rw [evaluate_of_stored h hfill]
    cases hfill with
    | stored hphase hprogram hresponses hloads =>
      exact filled.trans (reaches_performRuns hphase (by rw [hprogram]; rfl))

theorem reaches_evaluate_of_filled {s : State} {v : DWord} (h : s.slots.get (slotOf v) ≠ none) :
    Reaches { s.withValue v with phase := .runStart .low } (evaluate v s) := by
  rw [evaluate_of_filled h, ← performRuns_withPhase (s.withValue v) (.runStart .low)]
  exact reaches_performRuns rfl (Option.isSome_iff_ne_none.mpr h)

/-- Settles O48: the acceptance leads to the fill of an empty slot or to the runs of a stored program. -/
theorem theMachinePerformsEvaluate : Obligations.TheMachinePerformsEvaluate := by
  intro s v rest hidle hreq
  by_cases hslot : s.slots.get (slotOf v) = none
  · have accepted := (step_of_idle hidle).trans (congrArg _ (acceptRequest_of_empty hreq hslot))
    exact (Reaches.one accepted).trans (reaches_evaluate_of_empty (s := { s with requests := rest }) hslot)
  · have accepted := (step_of_idle hidle).trans (congrArg _ (acceptRequest_of_filled hreq hslot))
    exact (Reaches.one accepted).trans (reaches_evaluate_of_filled (s := { s with requests := rest }) hslot)

/-! ## What an `EVALUATE` leaves unchanged -/

/-- From `s` to `t` the configuration, the seed block and the pending requests stay. -/
structure TransactionFrame (s t : State) : Prop where
  cfg : t.cfg = s.cfg
  seed : t.seed = s.seed
  requests : t.requests = s.requests

theorem TransactionFrame.trans {s t u : State} (h : TransactionFrame s t) (k : TransactionFrame t u) :
    TransactionFrame s u :=
  ⟨k.cfg.trans h.cfg, k.seed.trans h.seed, k.requests.trans h.requests⟩

theorem AttemptFrame.requests {s t : State} (h : AttemptFrame s t) : t.requests = s.requests := by rw [h]

theorem abandonAttempt_requests (s : State) : (abandonAttempt s).requests = s.requests := by
  unfold abandonAttempt
  split <;> rfl

theorem emitLoop_requests (n : Nat) : ∀ s : State, (emitLoop n s).requests = s.requests := by
  induction n with
  | zero => exact fun _ => rfl
  | succ n ih =>
    intro s
    have hf := (emitAttempt_frame s).requests
    unfold emitLoop
    cases he : emitAttempt s with
    | ok t => rw [he] at hf; exact hf
    | abandoned t => rw [he] at hf; exact ((ih _).trans (abandonAttempt_requests t)).trans hf
    | lookupFailed base residue t => rw [he] at hf; exact hf

theorem storeProgram_transactionFrame (s : State) : TransactionFrame s (storeProgram s) := by
  obtain ⟨-, e⟩ | e := storeProgram_cases (s := s) rfl
  · exact e ▸ ⟨rfl, rfl, rfl⟩
  · exact e ▸ ⟨rfl, rfl, rfl⟩

theorem fillSlot_transactionFrame (s : State) : TransactionFrame s (fillSlot s) :=
  have hk := fillSlot_keeps s
  ⟨hk.cfg, hk.seed, emitLoop_requests 5 (beginFill s)⟩

theorem performFill_transactionFrame (s : State) : TransactionFrame s (performFill s) := by
  obtain h | h := fillSlot_phase s
  · rw [performFill_of_storing h]
    exact (fillSlot_transactionFrame s).trans (storeProgram_transactionFrame _)
  · rw [performFill_of_idle h]
    exact fillSlot_transactionFrame s

theorem performRuns_transactionFrame (s : State) : TransactionFrame s (performRuns s) :=
  have hk := performRuns_keeps s
  ⟨hk.cfg, hk.seed, performRuns_requests s⟩

theorem evaluate_transactionFrame (v : DWord) (s : State) : TransactionFrame s (evaluate v s) := by
  have hvalue : TransactionFrame s (s.withValue v) := ⟨rfl, rfl, rfl⟩
  by_cases hslot : s.slots.get (slotOf v) = none
  · have filled := hvalue.trans (performFill_transactionFrame _)
    rw [evaluate_of_empty hslot]
    split
    · exact filled
    · exact filled.trans (performRuns_transactionFrame _)
  · rw [evaluate_of_filled hslot]
    exact hvalue.trans (performRuns_transactionFrame _)

/-- Settles O49: the state is the one O48 reaches. -/
theorem everyEvaluateIsAnsweredOnce : Obligations.EveryEvaluateIsAnsweredOnce := by
  intro s v rest hidle hreq
  obtain ⟨hphase, r, hresponses⟩ := evaluate_answers v { s with requests := rest }
  obtain ⟨hcfg, hseed, hrequests⟩ := evaluate_transactionFrame v { s with requests := rest }
  exact ⟨_, r, theMachinePerformsEvaluate s v rest hidle hreq, hphase, hresponses, hrequests, hcfg, hseed⟩

end Sys2Proof.Machine
end

section
/-! What IU cannot tell apart: two states alike in the registers and memories IU reads go through the same
writes and take the same fault. -/

namespace Sys2Proof.Machine

/-- Equal in what IU reads: its registers, the configuration, the seed block, the slot number a fault records,
and the phase (R20 to R24, R52, R240). -/
structure SameIu (s t : State) : Prop where
  cfg : s.cfg = t.cfg
  seed : s.seed = t.seed
  slot : s.slot = t.slot
  phase : s.phase = t.phase
  acc : s.acc = t.acc
  inp : s.inp = t.inp
  pc : s.pc = t.pc
  ctx : s.ctx = t.ctx

/-- One word performed in `s` and in `t` answers alike: with the same writes, the same fault taken or the same
stop. -/
inductive AnswerAlike (s t : State) : Result → Result → Prop where
  | write (acc : Word) (ctx : List Word) (pc : Nat) :
      AnswerAlike s t (.next { s with acc := acc, ctx := ctx, pc := pc })
        (.next { t with acc := acc, ctx := ctx, pc := pc })
  | takeFault (f : FaultRecord) : AnswerAlike s t (.next (s.takeFault f)) (.next (t.takeFault f))
  | stop (f : Fault) : AnswerAlike s t (.fault f) (.fault f)

/-- Two passes, from `s` and from `t`, end alike: with the same writes, after which both may take one fault. -/
inductive PassAlike (s t : State) : State → State → Prop where
  | write (acc : Word) (ctx : List Word) (pc : Nat) :
      PassAlike s t { s with acc := acc, ctx := ctx, pc := pc } { t with acc := acc, ctx := ctx, pc := pc }
  | takeFault (acc : Word) (ctx : List Word) (pc : Nat) (f : FaultRecord) :
      PassAlike s t (State.takeFault { s with acc := acc, ctx := ctx, pc := pc } f)
        (State.takeFault { t with acc := acc, ctx := ctx, pc := pc } f)

theorem AnswerAlike.write_of_eq {s t : State} {acc acc' : Word} {ctx ctx' : List Word} {pc pc' : Nat}
    (hacc : acc = acc') (hctx : ctx = ctx') (hpc : pc = pc') :
    AnswerAlike s t (.next { s with acc := acc, ctx := ctx, pc := pc })
      (.next { t with acc := acc', ctx := ctx', pc := pc' }) := by
  subst hacc hctx hpc
  exact .write acc ctx pc

/-! ## One word -/

namespace SameIu

variable {s t : State}

theorem write (h : SameIu s t) (acc : Word) (ctx : List Word) (pc : Nat) :
    SameIu { s with acc := acc, ctx := ctx, pc := pc } { t with acc := acc, ctx := ctx, pc := pc } :=
  ⟨h.cfg, h.seed, h.slot, h.phase, rfl, h.inp, rfl, rfl⟩

theorem sp (h : SameIu s t) : s.sp = t.sp := congrArg List.length h.ctx

theorem next_pc (h : SameIu s t) : s.pc + 1 = t.pc + 1 := congrArg (· + 1) h.pc

theorem withAcc_alike (h : SameIu s t) {v w : Word} (hvw : v = w) :
    AnswerAlike s t (.next (s.withAcc v)) (.next (t.withAcc w)) :=
  .write_of_eq hvw h.ctx h.next_pc

theorem loadWord_alike (h : SameIu s t) {a b : Word} (hab : a = b) :
    AnswerAlike s t (loadWord a s) (loadWord b t) := by
  subst hab
  cases hr : s.seed.read a.toNat with
  | some w =>
    rw [loadWord_some hr, loadWord_some (h.seed ▸ hr)]
    exact h.withAcc_alike rfl
  | none =>
    rw [loadWord_none hr, loadWord_none (h.seed ▸ hr), h.slot, h.pc]
    exact .takeFault _

theorem combineTop_alike (h : SameIu s t) (f : Word → Word → Word) :
    AnswerAlike s t (combineTop f s) (combineTop f t) := by
  cases hc : t.ctx with
  | nil =>
    simp only [combineTop, h.ctx, hc]
    exact .stop _
  | cons top below =>
    rw [combineTop_cons (h.ctx.trans hc), combineTop_cons hc]
    exact h.withAcc_alike (by rw [h.acc])

theorem saveToContext_alike (h : SameIu s t) : AnswerAlike s t (execSaveToContext s) (execSaveToContext t) := by
  cases hc : t.ctx with
  | nil =>
    simp only [execSaveToContext, h.ctx, hc]
    exact .stop _
  | cons top below =>
    rw [execSaveToContext_cons (h.ctx.trans hc), execSaveToContext_cons hc]
    exact .write_of_eq h.acc (by rw [h.acc]) h.next_pc

theorem subroutine_alike (h : SameIu s t) : AnswerAlike s t (execSubroutine s) (execSubroutine t) := by
  by_cases hd : t.cfg.ctxDepth = some t.sp
  · rw [execSubroutine_of_full hd, execSubroutine_of_full (by rwa [h.cfg, h.sp]), h.slot, h.pc]
    exact .takeFault _
  · rw [execSubroutine_of_room hd, execSubroutine_of_room (by rwa [h.cfg, h.sp])]
    exact .write_of_eq h.acc (by rw [h.ctx]) h.next_pc

theorem ret_alike (h : SameIu s t) : AnswerAlike s t (execRet s) (execRet t) := by
  cases hc : t.ctx with
  | nil =>
    simp only [execRet, h.ctx, hc]
    exact .stop _
  | cons top below =>
    simp only [execRet, h.ctx, hc]
    exact .write_of_eq h.acc (by rw [h.ctx]) (by rw [h.ctx, h.pc])

/-- An instruction reads nothing else (R12, R114, R140, R160). -/
theorem exec_alike (h : SameIu s t) (i : Instr) : AnswerAlike s t (exec i s) (exec i t) := by
  cases i with
  | loadArg imm => exact h.withAcc_alike rfl
  | loadInput => exact h.withAcc_alike h.inp
  | loadFromBuffer imm => exact h.loadWord_alike rfl
  | loadFromBufferIndirect imm => exact h.loadWord_alike (by rw [h.acc])
  | addArg imm => exact h.withAcc_alike (by rw [h.acc])
  | subtractArg imm => exact h.withAcc_alike (by rw [h.acc])
  | addOne => exact h.withAcc_alike (by rw [h.acc])
  | subtractOne => exact h.withAcc_alike (by rw [h.acc])
  | bitwiseNot => exact h.withAcc_alike (by rw [h.acc])
  | bitwiseXor imm => exact h.withAcc_alike (by rw [h.acc])
  | negate => exact h.withAcc_alike (by rw [h.acc])
  | shuffle imm => exact h.withAcc_alike (by rw [h.acc])
  | saveToContext => exact h.saveToContext_alike
  | addContext => exact h.combineTop_alike _
  | subtractContext => exact h.combineTop_alike _
  | subtractFromContext => exact h.combineTop_alike fun acc top => top - acc
  | multiplyContext => exact h.combineTop_alike _
  | shlContext => exact h.combineTop_alike fun acc top => acc <<< shiftCount top
  | shrContext => exact h.combineTop_alike fun acc top => acc >>> shiftCount top
  | subroutine => exact h.subroutine_alike
  | ret => exact h.ret_alike

theorem execWord_alike (h : SameIu s t) (w : IWord) : AnswerAlike s t (execWord w s) (execWord w t) := by
  cases hd : decode w with
  | instr i =>
    rw [execWord_of_decode hd, execWord_of_decode hd]
    exact h.exec_alike i
  | unknown op =>
    rw [execWord_of_unknown hd, execWord_of_unknown hd, h.slot, h.pc]
    exact .takeFault _

end SameIu

/-! ## A pass -/

/-- A pass whose first word makes the same writes in both states, seen from before them. -/
theorem PassAlike.after_write {s t u v : State} (acc : Word) (ctx : List Word) (pc : Nat)
    (h : PassAlike { s with acc := acc, ctx := ctx, pc := pc } { t with acc := acc, ctx := ctx, pc := pc } u v) :
    PassAlike s t u v := by
  cases h with
  | write acc ctx pc => exact .write acc ctx pc
  | takeFault acc ctx pc f => exact .takeFault acc ctx pc f

/-- Where the two states are alike, a write of what the one holds leaves the other. -/
theorem SameIu.write_back {s t : State} (h : SameIu s t) :
    { t with acc := s.acc, ctx := s.ctx, pc := s.pc } = t := by
  rw [h.acc, h.ctx, h.pc]

theorem SameIu.pass_refl {s t : State} (h : SameIu s t) : PassAlike s t s t := by
  have whole := PassAlike.write (s := s) (t := t) s.acc s.ctx s.pc
  rwa [h.write_back] at whole

theorem SameIu.pass_takeFault {s t : State} (h : SameIu s t) (f : FaultRecord) :
    PassAlike s t (s.takeFault f) (t.takeFault f) := by
  have whole := PassAlike.takeFault (s := s) (t := t) s.acc s.ctx s.pc f
  rwa [h.write_back] at whole

/-- Two states that IU cannot tell apart go through a pass alike, word by word. -/
theorem SameIu.runWords_alike (ws : List IWord) :
    ∀ {s t : State}, SameIu s t → PassAlike s t (runWords ws s) (runWords ws t) := by
  induction ws with
  | nil => exact fun h => h.pass_refl
  | cons w ws ih =>
    intro s t h
    have word := h.execWord_alike w
    generalize hs : execWord w s = r, ht : execWord w t = r' at word
    cases word with
    | write acc ctx pc =>
      rw [runWords_cons_of_next hs, runWords_cons_of_next ht]
      refine .after_write acc ctx pc ?_
      exact rel_ite (by simp only [h.phase, State.sp]) (.write acc ctx pc) (ih (h.write acc ctx pc))
    | takeFault f =>
      rw [runWords_of_fault ws hs, runWords_of_fault ws ht]
      exact h.pass_takeFault f
    | stop f =>
      rw [runWords_cons_of_stop (by simp [hs]), runWords_cons_of_stop (by simp [ht])]
      exact h.pass_refl

end Sys2Proof.Machine
end

section
/-! The request register: a transaction reads it only through the slot number and the input of its runs (R224,
R229), so that two operands alike in these go through the same transaction. -/

namespace Sys2Proof.Machine

/-! ## Pieces of an attempt do not read the request register -/

/-- The same end of a piece with another operand in the request register. -/
def Emit.withValue (v : DWord) : Emit → Emit
  | .ok s => .ok (s.withValue v)
  | .abandoned s => .abandoned (s.withValue v)
  | .lookupFailed base residue s => .lookupFailed base residue (s.withValue v)

/-- A piece that neither reads nor writes the request register. -/
def IgnoresValue (k : State → Emit) : Prop :=
  ∀ (s : State) (v : DWord), k (s.withValue v) = (k s).withValue v

theorem IgnoresValue.andThen {k : State → Emit} (hk : IgnoresValue k) (e : Emit) (v : DWord) :
    (e.withValue v).andThen k = (e.andThen k).withValue v := by
  cases e with
  | ok s => exact hk s v
  | abandoned s => rfl
  | lookupFailed base residue s => rfl

theorem IgnoresValue.seq {j k : State → Emit} (hj : IgnoresValue j) (hk : IgnoresValue k) :
    IgnoresValue fun s => (j s).andThen k :=
  fun s v => (congrArg (·.andThen k) (hj s v)).trans (hk.andThen (j s) v)

theorem IgnoresValue.draw {k : Word → State → Emit} (hk : ∀ d, IgnoresValue (k d)) :
    IgnoresValue fun s => k s.draw.1 s.draw.2 :=
  fun s v => hk s.draw.1 s.draw.2 v

theorem charge_ignoresValue (c : Nat) : IgnoresValue (charge c) := by
  intro s v
  by_cases h : s.cost + c ≤ s.cfg.maxCost
  · rw [charge_of_le h]
    exact charge_of_le (s := s.withValue v) h
  · rw [charge_of_gt (Nat.lt_of_not_le h)]
    exact charge_of_gt (s := s.withValue v) (Nat.lt_of_not_le h)

theorem append_ignoresValue (i : Instr) : IgnoresValue (append i) :=
  fun s v => charge_ignoresValue _ { s with buf := s.buf ++ [encode i] } v

theorem select_of_found {base m k : Nat} (choice : Nat → State → Emit) {s : State}
    (h : lookup s.cfg.order base m (s.draw.1.toNat % m) = some k) :
    select base m choice s = choice k s.draw.2 := by
  simp only [select, h]

theorem select_ignoresValue (base m : Nat) {choice : Nat → State → Emit} (h : ∀ k, IgnoresValue (choice k)) :
    IgnoresValue (select base m choice) := by
  intro s v
  cases hl : lookup s.cfg.order base m (s.draw.1.toNat % m) with
  | some k =>
    rw [select_of_found choice hl, ← h k s.draw.2 v]
    exact select_of_found choice (s := s.withValue v) hl
  | none =>
    rw [select_of_missing choice hl]
    exact select_of_missing choice (s := s.withValue v) hl

theorem finalChoice_ignoresValue (k : Nat) : IgnoresValue (finalChoice k) :=
  match k with
  | 0 => .draw fun d => append_ignoresValue (.loadArg d)
  | 1 => append_ignoresValue .loadInput
  | _ + 2 => .draw fun d => append_ignoresValue (.loadFromBuffer (d &&& 0x3FF))

theorem addOrSubtract_ignoresValue : IgnoresValue addOrSubtract := by
  intro s v
  by_cases h : isEven s.draw.1 = s.cfg.addsubEvenIsAdd
  · rw [addOrSubtract_of_add h, ← append_ignoresValue]
    exact addOrSubtract_of_add (s := s.withValue v) h
  · rw [addOrSubtract_of_subtract h, ← append_ignoresValue]
    exact addOrSubtract_of_subtract (s := s.withValue v) h

theorem innerChoice_ignoresValue (k : Nat) : IgnoresValue (innerChoice k) :=
  match k with
  | 0 | 1 | 2 | 3 | 4 | _ + 7 => append_ignoresValue _
  | 5 => .draw fun d => append_ignoresValue (.bitwiseXor d)
  | 6 => addOrSubtract_ignoresValue

theorem subroutineChoice_ignoresValue (k : Nat) : IgnoresValue (subroutineChoice k) :=
  match k with
  | 0 | 1 | 2 | 3 | 4 | _ + 5 => append_ignoresValue _

theorem subroutineEnd_ignoresValue : IgnoresValue subroutineEnd :=
  (select_ignoresValue 8 6 subroutineChoice_ignoresValue).seq (append_ignoresValue .ret)

theorem emitProduction_ignoresValue (n : Nat) : ∀ p : Production, IgnoresValue (emitProduction p n) := by
  induction n with
  | zero => rintro (_ | _) <;> exact select_ignoresValue 14 3 finalChoice_ignoresValue
  | succ n ih =>
    have call : IgnoresValue fun s => emitProduction (coinProduction s.draw.1) n s.draw.2 :=
      .draw (k := fun d => emitProduction (coinProduction d) n) fun d => ih (coinProduction d)
    intro p
    cases p with
    | inner => exact call.seq (select_ignoresValue 0 8 innerChoice_ignoresValue)
    | subroutine =>
      exact (append_ignoresValue .subroutine).seq <| call.seq <|
        (append_ignoresValue .saveToContext).seq <| call.seq subroutineEnd_ignoresValue

theorem closeAttempt_ignoresValue : IgnoresValue closeAttempt :=
  ((append_ignoresValue .ret).seq (charge_ignoresValue 5)).seq fun _ _ => rfl

/-! ## A fill reads the slot number only -/

section Fill

variable {v : DWord} {s : State}

theorem attemptHead_withValue (h : slotOf v = s.slot) :
    attemptHead (s.withValue v) = (attemptHead s).withValue v := by
  have hslot : (s.withValue v).slot = s.slot := h
  simp only [attemptHead, hslot]
  cases hr : s.cfg.reseedPerAttempt <;> simp [State.withValue, hr, State.seedGenerators]

theorem openAttempt_withValue (h : slotOf v = s.slot) :
    openAttempt (s.withValue v) = (openAttempt s).withValue v := by
  rw [openAttempt_eq, openAttempt_eq, attemptHead_withValue h]
  by_cases hb : s.cfg.maxCost < 9
  · rw [if_pos hb]
    exact if_pos hb
  · rw [if_neg hb]
    exact if_neg hb

theorem emitAttempt_withValue (h : slotOf v = s.slot) :
    emitAttempt (s.withValue v) = (emitAttempt s).withValue v := by
  have rest : IgnoresValue fun u => (emitProduction .subroutine (s.rounds - 1) u).andThen closeAttempt :=
    (emitProduction_ignoresValue _ .subroutine).seq closeAttempt_ignoresValue
  rw [emitAttempt, emitAttempt, Emit.andThen_assoc, Emit.andThen_assoc, openAttempt_withValue h]
  exact rest.andThen (openAttempt s) v

theorem takeFault_withValue (f : FaultRecord) :
    (s.withValue v).takeFault f = (s.takeFault f).withValue v := rfl

theorem abandonAttempt_withValue (h : slotOf v = s.slot) :
    abandonAttempt (s.withValue v) = (abandonAttempt s).withValue v := by
  by_cases hr : s.rounds ≤ 1
  · rw [abandonAttempt_of_le hr, ← h]
    exact abandonAttempt_of_le (u := s.withValue v) hr
  · rw [abandonAttempt_of_ge (Nat.lt_of_not_le hr)]
    exact abandonAttempt_of_ge (u := s.withValue v) (Nat.lt_of_not_le hr)

end Fill

theorem emitLoop_withValue {v : DWord} (n : Nat) :
    ∀ s : State, slotOf v = s.slot → emitLoop n (s.withValue v) = (emitLoop n s).withValue v := by
  induction n with
  | zero => exact fun _ _ => rfl
  | succ n ih =>
    intro s h
    have hf := (emitAttempt_frame s).keeps.slot
    rw [emitLoop, emitLoop, emitAttempt_withValue h]
    cases he : emitAttempt s with
    | ok t => rfl
    | abandoned t =>
      rw [he] at hf
      have ht : slotOf v = t.slot := h.trans hf.symm
      dsimp only [Emit.withValue]
      rw [abandonAttempt_withValue ht]
      exact ih _ (ht.trans (abandonAttempt_keeps t).slot.symm)
    | lookupFailed base residue t =>
      rw [he] at hf
      have ht : (t.withValue v).slot = t.slot := h.trans hf.symm
      dsimp only [Emit.withValue, settle]
      rw [ht, takeFault_withValue]

theorem fillSlot_withValue {v : DWord} {s : State} (h : slotOf v = s.slot) :
    fillSlot (s.withValue v) = (fillSlot s).withValue v := by
  have hbegin : beginFill (s.withValue v) = (beginFill s).withValue v := by
    have hslot : (s.withValue v).slot = s.slot := h
    rw [beginFill, beginFill, hslot]
    rfl
  rw [fillSlot, hbegin]
  exact emitLoop_withValue 5 (beginFill s) h

theorem storeProgram_withValue {v : DWord} {s : State} (h : slotOf v = s.slot) :
    storeProgram (s.withValue v) = (storeProgram s).withValue v := by
  have hslot : (s.withValue v).slot = s.slot := h
  have hstore : (s.withValue v).storeSlot s.buf = (s.storeSlot s.buf).withValue v := by
    simp only [State.storeSlot, hslot]
    rfl
  by_cases hf : fits s.cfg.progCap s.buf.length = true
  · rw [storeProgram_of_fits hf, storeProgram_of_fits (s := s.withValue v) hf]
    exact congrArg (fun u : State => { u.endFill with phase := .runStart .low }) hstore
  · rw [storeProgram_of_not_fits hf, storeProgram_of_not_fits (s := s.withValue v) hf, hslot]
    rfl

theorem performFill_withValue {v : DWord} {s : State} (h : slotOf v = s.slot) :
    performFill (s.withValue v) = (performFill s).withValue v := by
  have hfill := fillSlot_withValue h
  obtain hp | hp := fillSlot_phase s
  · rw [performFill_of_storing hp, performFill_of_storing (by rw [hfill]; exact hp), hfill]
    exact storeProgram_withValue (h.trans (fillSlot_keeps s).slot.symm)
  · rw [performFill_of_idle hp, performFill_of_idle (by rw [hfill]; exact hp), hfill]

/-! ## The runs read the slot number and the folded input only -/

/-- Two operands alike in what a transaction reads of them (R224, R229). -/
structure SameOperand (v w : DWord) : Prop where
  slot : slotOf v = slotOf w
  input : ∀ half, runInput half v = runInput half w

/-- Operands that agree in bits 38:0 are alike: bits 6:0 are the slot number and bits 38:7 the folded input. -/
theorem sameOperand_of_mod {v w : DWord} (h : v.toNat % 2 ^ 39 = w.toNat % 2 ^ 39) : SameOperand v w := by
  have folded : trunc32 (v >>> 7) = trunc32 (w >>> 7) := by
    apply BitVec.eq_of_toNat_eq
    rw [trunc32_shiftRight_seven_toNat, trunc32_shiftRight_seven_toNat]
    omega
  refine ⟨Fin.ext (show v.toNat % 128 = w.toNat % 128 by omega), fun half => ?_⟩
  cases half with
  | low => exact folded
  | high => exact congrArg (~~~ ·) folded

section Runs

variable {v : DWord} {s : State}

theorem startRun_withValue (half : RunHalf) (h : SameOperand v s.value) :
    startRun half (s.withValue v) = (startRun half s).withValue v := by
  have hinput : runInput half (s.withValue v).value = runInput half s.value := h.input half
  simp only [startRun, hinput]
  cases hacc : s.cfg.accInit <;> simp [State.withValue, hacc]

theorem runWords_withValue (ws : List IWord) (h : slotOf v = s.slot) :
    runWords ws (s.withValue v) = (runWords ws s).withValue v := by
  have same : SameIu s (s.withValue v) := ⟨rfl, rfl, h.symm, rfl, rfl, rfl, rfl, rfl⟩
  have ends := same.runWords_alike ws
  generalize runWords ws s = t, runWords ws (s.withValue v) = t' at ends
  cases ends with
  | write acc ctx pc => rfl
  | takeFault acc ctx pc f => rfl

theorem program_withValue (h : slotOf v = s.slot) : (s.withValue v).program? = s.program? :=
  congrArg s.slots.get h

theorem pass_withValue (half : RunHalf) (h : SameOperand v s.value) :
    (s.withValue v).pass half = (s.pass half).withValue v := by
  rw [State.pass, State.pass, program_withValue h.slot, startRun_withValue half h]
  exact runWords_withValue _ (h.slot.trans (startRun_keeps half s).slot.symm)

theorem endPass_withValue (half : RunHalf) : endPass half (s.withValue v) = (endPass half s).withValue v := by
  by_cases hp : s.phase = .idle
  · rw [endPass_of_idle hp, endPass_of_idle (t := s.withValue v) hp]
  · rw [endPass_of_live hp, endPass_of_live (t := s.withValue v) hp]
    cases half <;> rfl

theorem performRun_withValue (half : RunHalf) (h : SameOperand v s.value) :
    performRun half (s.withValue v) = (performRun half s).withValue v := by
  rw [performRun_eq, performRun_eq, pass_withValue half h, endPass_withValue]

theorem performRuns_withValue (h : SameOperand v s.value) :
    performRuns (s.withValue v) = (performRuns s).withValue v := by
  have hlow := performRun_withValue .low h
  have hvalue := (performRun_keeps .low s).value
  by_cases hp : (performRun .low s).phase = .idle
  · rw [performRuns_of_idle hp, performRuns_of_idle (by rw [hlow]; exact hp), hlow]
  · rw [performRuns_of_live hp, performRuns_of_live (by rw [hlow]; exact hp), hlow,
      performRun_withValue .high (hvalue ▸ h)]

end Runs

/-! ## The whole transaction -/

theorem performFill_value (s : State) : (performFill s).value = s.value := by
  have hvalue := (fillSlot_keeps s).value
  obtain h | h := fillSlot_phase s
  · rw [performFill_of_storing h]
    obtain ⟨-, e⟩ | e := storeProgram_cases (s := fillSlot s) rfl <;> exact e ▸ hvalue
  · rw [performFill_of_idle h, hvalue]

theorem evaluate_of_sameOperand {v w : DWord} (h : SameOperand w v) (s : State) :
    evaluate w s = (evaluate v s).withValue w := by
  have hfill : performFill (s.withValue w) = (performFill (s.withValue v)).withValue w :=
    performFill_withValue (s := s.withValue v) h.slot
  by_cases hslot : s.slots.get (slotOf v) = none
  · rw [evaluate_of_empty hslot, evaluate_of_empty (h.slot ▸ hslot), hfill]
    by_cases hp : (performFill (s.withValue v)).phase = .idle
    · rw [if_pos hp]
      exact if_pos hp
    · rw [if_neg hp, ← performRuns_withValue (by rw [performFill_value]; exact h)]
      exact if_neg hp
  · rw [evaluate_of_filled hslot, evaluate_of_filled (h.slot ▸ hslot)]
    exact performRuns_withValue (s := s.withValue v) h

/-- Settles O46: the two transactions are those of O48, alike but for the request register. -/
theorem highRequestBitsAreUnused : Obligations.HighRequestBitsAreUnused := by
  intro v w hbits
  have same := sameOperand_of_mod hbits
  refine ⟨same.slot, same.input, fun s rest hidle hreq => ?_⟩
  obtain ⟨hphase, r, hresponses⟩ := evaluate_answers v { s with requests := rest }
  have reaches := theMachinePerformsEvaluate { s with requests := .evaluate w :: rest } w rest hidle rfl
  rw [evaluate_of_sameOperand (sameOperand_of_mod hbits.symm)] at reaches
  exact ⟨_, r, hphase, hresponses, theMachinePerformsEvaluate s v rest hidle hreq, reaches⟩

end Sys2Proof.Machine
end

section
/-! `EVALUATE` is a function of its operand, the configuration and the seed block (R230): a core whose store FE
wrote answers what a freshly constructed one answers. -/

namespace Sys2Proof.Machine

/-! ## Fills of one slot answer alike -/

/-- From `s` to `s'` and from `t` to `t'` the host has been answered the same. -/
def AnsweredAlike (s s' t t' : State) : Prop :=
  ∃ l, s'.responses = s.responses ++ l ∧ t'.responses = t.responses ++ l

theorem AnsweredAlike.of_eq {s s' t t' : State} (hs : s'.responses = s.responses)
    (ht : t'.responses = t.responses) : AnsweredAlike s s' t t' :=
  ⟨[], by rw [hs, List.append_nil], by rw [ht, List.append_nil]⟩

theorem AnsweredAlike.trans {s s' s'' t t' t'' : State} (h : AnsweredAlike s s' t t')
    (k : AnsweredAlike s' s'' t' t'') : AnsweredAlike s s'' t t'' := by
  obtain ⟨l, hs, ht⟩ := h
  obtain ⟨m, hs', ht'⟩ := k
  exact ⟨l ++ m, by rw [hs', hs, List.append_assoc], by rw [ht', ht, List.append_assoc]⟩

theorem takeFault_answeredAlike (s t : State) (f : FaultRecord) :
    AnsweredAlike s (s.takeFault f) t (t.takeFault f) := ⟨[.fault f], rfl, rfl⟩

theorem abandonAttempt_answeredAlike {s t : State} (h : SameStream s t) :
    AnsweredAlike s (abandonAttempt s) t (abandonAttempt t) := by
  by_cases hr : t.rounds ≤ 1
  · rw [abandonAttempt_of_le hr, abandonAttempt_of_le (h.rounds.trans_le hr), h.slot]
    exact takeFault_answeredAlike s t _
  · have hr := Nat.lt_of_not_le hr
    rw [abandonAttempt_of_ge hr, abandonAttempt_of_ge (hr.trans_eq h.rounds.symm)]
    exact .of_eq rfl rfl

theorem emitLoop_answeredAlike (n : Nat) :
    ∀ {s t : State}, SameStream s t → AnsweredAlike s (emitLoop n s) t (emitLoop n t) := by
  induction n with
  | zero => exact fun _ => .of_eq rfl rfl
  | succ n ih =>
    intro s t h
    have hsame := emitAttempt_same h
    have attempt : AnsweredAlike s (emitAttempt s).state t (emitAttempt t).state :=
      .of_eq (emitAttempt_frame s).responses (emitAttempt_frame t).responses
    unfold emitLoop
    generalize emitAttempt s = e, emitAttempt t = e' at hsame attempt ⊢
    cases hsame with
    | ok hu => exact attempt
    | abandoned hu =>
      exact (attempt.trans (abandonAttempt_answeredAlike hu.toSameStream)).trans (ih (abandonAttempt_same hu))
    | lookupFailed base residue hu =>
      refine attempt.trans ?_
      dsimp only [settle, Emit.state]
      rw [hu.slot]
      exact takeFault_answeredAlike _ _ _

theorem fillSlot_answeredAlike {s t : State} (hcfg : s.cfg = t.cfg) (hslot : s.slot = t.slot) :
    AnsweredAlike s (fillSlot s) t (fillSlot t) :=
  emitLoop_answeredAlike 5 (beginFill_same hcfg hslot)

/-- A fill that failed answered the fault. -/
theorem exists_fault_of_idle {s : State} (h : (fillSlot s).phase = .idle) :
    ∃ f, (fillSlot s).responses = s.responses ++ [.fault f] := by
  obtain hp | ⟨-, -, hf | ⟨base, residue, -, hf⟩⟩ := (fillEnds_fillSlot s).returned_or_fault
  · simp [hp] at h
  · exact ⟨_, hf⟩
  · exact ⟨_, hf⟩

/-- Two fills of one slot under one configuration store the same program or answer the same fault (R31, R203). -/
theorem performFill_alike {s t : State} (hcfg : s.cfg = t.cfg) (hslot : s.slot = t.slot) :
    ∃ o, FillAnswers s (performFill s) o ∧ FillAnswers t (performFill t) o := by
  have same := fillSlot_same hcfg hslot
  obtain hp | hp := fillSlot_phase s
  · have hp' : (fillSlot t).phase = .storing := same.phase.symm.trans hp
    by_cases hfits : fits s.cfg.progCap (fillSlot s).buf.length = true
    · refine ⟨_, performFill_of_fits hp hfits, ?_⟩
      rw [hcfg] at hfits
      rw [same.buf] at hfits ⊢
      exact performFill_of_fits hp' hfits
    · refine ⟨_, performFill_of_not_fits hp hfits, ?_⟩
      rw [hcfg] at hfits
      rw [same.buf] at hfits ⊢
      rw [hslot]
      exact performFill_of_not_fits hp' hfits
  · have hp' : (fillSlot t).phase = .idle := same.phase.symm.trans hp
    obtain ⟨f, hf⟩ := exists_fault_of_idle hp
    obtain ⟨l, hs, ht⟩ := fillSlot_answeredAlike hcfg hslot
    obtain rfl : l = [.fault f] := List.append_cancel_left (hs.symm.trans hf)
    rw [performFill_of_idle hp, performFill_of_idle hp']
    exact ⟨_, .failed hp hs, .failed hp' ht⟩

/-! ## Runs of one program answer alike -/

/-- Equal in what the two runs read but for the starting accumulator: the configuration, the seed block, the
operand and the program of its slot. -/
structure SameRuns (p : Program) (s t : State) : Prop where
  cfg : s.cfg = t.cfg
  seed : s.seed = t.seed
  value : s.value = t.value
  program : s.program? = some p
  program' : t.program? = some p

theorem pass_eq {s : State} {p : Program} (half : RunHalf) (hp : s.program? = some p) :
    s.pass half = runWords p (startRun half s) := by
  rw [State.pass, hp, Option.getD_some]

/-- A program that loads first ends its pass as it would from another starting accumulator (R207). -/
theorem LoadsFirst.pass_ends_of_acc {p : Program} (hl : LoadsFirst p) {half : RunHalf} {s : State}
    (hp : s.program? = some p) {a : Word} {o : Except FaultRecord Word}
    (h : PassEnds half s o (runWords p { startRun half s with acc := a })) : PassEnds half s o (s.pass half) := by
  obtain ⟨n, i, rest, hi, rfl⟩ := hl
  obtain ⟨hresponses, hphase, hlive⟩ := startingAccumulatorCannotBeSeen n i rest (startRun half s) a hi
    (by simp [startRun_phase])
  rw [← pass_eq half hp] at hresponses hphase hlive
  generalize runWords (List.replicate n (encode .subroutine) ++ encode i :: rest)
    { startRun half s with acc := a } = u at h hresponses hphase hlive
  cases h with
  | live acc ctx pc freeCount =>
    rw [← hlive (by rw [← hphase]; simp [State.inRun])]
    exact .live acc ctx pc freeCount
  | faulted f acc ctx pc freeCount =>
    obtain ⟨o, hends⟩ := pass_ends half s
    generalize s.pass half = t at hends hresponses hphase
    cases hends with
    | live => cases hphase
    | faulted f' acc' ctx' pc' freeCount' =>
      obtain rfl : f = f' := by simpa [State.inRun] using hresponses
      exact .faulted f acc' ctx' pc' freeCount'

theorem startRun_alike {p : Program} {s t : State} (h : SameRuns p s t) (half : RunHalf) :
    SameIu (startRun half s) { startRun half t with acc := (startRun half s).acc } := by
  obtain ⟨acc, freeCount, hs⟩ := startRun_form half s
  obtain ⟨acc', freeCount', ht⟩ := startRun_form half t
  rw [hs, ht]
  exact ⟨h.cfg, h.seed, congrArg slotOf h.value, rfl, rfl, congrArg (runInput half) h.value, rfl, rfl⟩

theorem pass_alike {p : Program} {s t : State} (h : SameRuns p s t) (hl : LoadsFirst p) (half : RunHalf) :
    ∃ o, PassEnds half s o (s.pass half) ∧ PassEnds half t o (t.pass half) := by
  have ends := (startRun_alike h half).runWords_alike p
  rw [← pass_eq half h.program] at ends
  have other (o : Except FaultRecord Word) :
      PassEnds half t o (runWords p { startRun half t with acc := (startRun half s).acc }) →
        PassEnds half t o (t.pass half) := hl.pass_ends_of_acc h.program'
  generalize s.pass half = u,
    runWords p { startRun half t with acc := (startRun half s).acc } = v at ends other
  cases ends with
  | write acc ctx pc => exact ⟨.ok acc, .of_write half s acc ctx pc, other _ (.of_write half t acc ctx pc)⟩
  | takeFault acc ctx pc f =>
    exact ⟨.error f, .of_takeFault half s acc ctx pc f, other _ (.of_takeFault half t acc ctx pc f)⟩

theorem SameRuns.performRun {p : Program} {s t : State} (h : SameRuns p s t) (half : RunHalf) :
    SameRuns p (performRun half s) (performRun half t) :=
  have hs := performRun_keeps half s
  have ht := performRun_keeps half t
  ⟨by rw [hs.cfg, ht.cfg, h.cfg], by rw [hs.seed, ht.seed, h.seed], by rw [hs.value, ht.value, h.value],
    hs.program.trans h.program, ht.program.trans h.program'⟩

theorem performRuns_alike {p : Program} {s t : State} (h : SameRuns p s t) (hl : LoadsFirst p) :
    ∃ r, (performRuns s).responses = s.responses ++ [r] ∧ (performRuns t).responses = t.responses ++ [r] := by
  obtain ⟨lo, hs, ht⟩ := pass_alike h hl .low
  obtain ⟨hi, hs', ht'⟩ := pass_alike (h.performRun .low) hl .high
  exact ⟨_, (performRuns_answer hs hs').2, (performRuns_answer ht ht').2⟩

/-! ## What a freshly constructed core answers -/

theorem new_slot_empty (c : Configuration) (m : SeedBlock) (v : DWord) :
    (State.new c m).slots.get (slotOf v) = none := new_get c m (slotOf v)

/-- From an empty slot a core answers what a freshly constructed one answers, whatever its registers hold. -/
theorem evaluate_of_empty_alike {s : State} {v : DWord} (h : s.slots.get (slotOf v) = none) :
    ∃ r, (evaluate v s).responses = s.responses ++ [r] ∧
      (evaluate v (State.new s.cfg s.seed)).responses = [r] := by
  have hnew := new_slot_empty s.cfg s.seed v
  obtain ⟨o, hfill, hfill'⟩ :=
    performFill_alike (s := s.withValue v) (t := (State.new s.cfg s.seed).withValue v) rfl rfl
  cases o with
  | error f =>
    rw [evaluate_of_failed h hfill, evaluate_of_failed hnew hfill']
    cases hfill with
    | failed hphase hresponses =>
      cases hfill' with
      | failed hphase' hresponses' => exact ⟨_, hresponses, hresponses'⟩
  | ok p =>
    rw [evaluate_of_stored h hfill, evaluate_of_stored hnew hfill']
    have hs := performFill_transactionFrame (s.withValue v)
    have ht := performFill_transactionFrame ((State.new s.cfg s.seed).withValue v)
    have hvalue := performFill_value (s.withValue v)
    have hvalue' := performFill_value ((State.new s.cfg s.seed).withValue v)
    cases hfill with
    | stored hphase hprogram hresponses hloads =>
      cases hfill' with
      | stored hphase' hprogram' hresponses' hloads' =>
        have same : SameRuns p (performFill (s.withValue v))
            (performFill ((State.new s.cfg s.seed).withValue v)) :=
          ⟨hs.cfg.trans ht.cfg.symm, hs.seed.trans ht.seed.symm,
            hvalue.trans hvalue'.symm, hprogram, hprogram'⟩
        obtain ⟨r, hr, hr'⟩ := performRuns_alike same hloads
        rw [hresponses] at hr
        rw [hresponses'] at hr'
        exact ⟨r, hr, hr'⟩

/-- A slot that FE filled holds the program a freshly constructed core stores there first, so that the two
answer alike. -/
theorem evaluate_of_filled_alike {s : State} {v : DWord} {p : Program} (h : s.slots.get (slotOf v) = some p)
    (hcoherent : s.Coherent) (hfits : fits s.cfg.progCap p.length = true) :
    ∃ r, (evaluate v s).responses = s.responses ++ [r] ∧
      (evaluate v (State.new s.cfg s.seed)).responses = [r] := by
  obtain ⟨hphase, rfl⟩ := hcoherent v p h
  have hfill := performFill_of_fits (s := (State.new s.cfg s.seed).withValue v) hphase hfits
  rw [evaluate_of_filled (by rw [h]; simp), evaluate_of_stored (new_slot_empty s.cfg s.seed v) hfill]
  have ht := performFill_transactionFrame ((State.new s.cfg s.seed).withValue v)
  have hvalue := performFill_value ((State.new s.cfg s.seed).withValue v)
  cases hfill with
  | stored hphase hprogram hresponses hloads =>
    have same : SameRuns _ (s.withValue v) (performFill ((State.new s.cfg s.seed).withValue v)) :=
      ⟨ht.cfg.symm, ht.seed.symm, hvalue.symm, h, hprogram⟩
    obtain ⟨r, hr, hr'⟩ := performRuns_alike same hloads
    rw [hresponses] at hr'
    exact ⟨r, hr, hr'⟩

theorem evaluate_answers_as_new {s : State} (hinv : s.Inv) (hcoherent : s.Coherent) (v : DWord) :
    ∃ r, (evaluate v s).responses = s.responses ++ [r] ∧
      (evaluate v (State.new s.cfg s.seed)).responses = [r] := by
  cases h : s.slots.get (slotOf v) with
  | none => exact evaluate_of_empty_alike h
  | some p => exact evaluate_of_filled_alike h hcoherent (hinv.slotFits _ p h)

/-! ## The first answer of a core -/

theorem AnswersAtMostOnce.isPrefix {s t : State} (h : AnswersAtMostOnce s t) : s.responses <+: t.responses := by
  obtain h | ⟨-, r, h⟩ := h
  · exact ⟨[], by rw [h, List.append_nil]⟩
  · exact ⟨[r], h.symm⟩

/-- No answer is taken back. -/
theorem responses_isPrefix_of_runs (n : Nat) :
    ∀ {s t : State}, runs n s = .next t → s.responses <+: t.responses := by
  induction n with
  | zero =>
    rintro s t ⟨⟩
    exact ⟨[], List.append_nil _⟩
  | succ n ih =>
    intro s t h
    rw [runs] at h
    split at h
    · rename_i u hu
      exact (step_answersAtMostOnce hu).isPrefix.trans (ih h)
    · cases h
    · cases h

theorem Reaches.responses_isPrefix {s t : State} (h : Reaches s t) : s.responses <+: t.responses := by
  obtain ⟨n, hn⟩ := h
  exact responses_isPrefix_of_runs n hn

/-- The machine is deterministic: of two states it reaches, it reaches one from the other. -/
theorem Reaches.total {s t u : State} (ht : Reaches s t) (hu : Reaches s u) : Reaches t u ∨ Reaches u t := by
  obtain ⟨n, hn⟩ := ht
  obtain ⟨m, hm⟩ := hu
  obtain ⟨k, rfl⟩ | ⟨k, rfl⟩ := (Nat.le_total n m).imp Nat.exists_eq_add_of_le Nat.exists_eq_add_of_le
  · exact .inl ⟨k, (runs_add n k s t hn).symm.trans hm⟩
  · exact .inr ⟨k, (runs_add m k s u hm).symm.trans hn⟩

theorem eq_of_append_isPrefix {l : List Response} {r r' : Response} (h : l ++ [r] <+: l ++ [r']) : r = r' := by
  simpa using h.eq_of_length (by simp)

theorem first_answer_unique {s t u : State} {r r' : Response} (ht : Reaches s t)
    (hr : t.responses = s.responses ++ [r]) (hu : Reaches s u) (hr' : u.responses = s.responses ++ [r']) :
    r = r' := by
  obtain h | h := ht.total hu
  · exact eq_of_append_isPrefix (hr ▸ hr' ▸ h.responses_isPrefix)
  · exact (eq_of_append_isPrefix (hr' ▸ hr ▸ h.responses_isPrefix)).symm

/-- The first answer to an accepted `EVALUATE` is the one a freshly constructed core gives (R230). -/
theorem new_answers_first_answer {s t : State} {v : DWord} {rest : List Request} {r : Response} (hinv : s.Inv)
    (hcoherent : s.Coherent) (hidle : s.phase = .idle) (hreq : s.requests = .evaluate v :: rest)
    (ht : Reaches s t) (hr : t.responses = s.responses ++ [r]) :
    (evaluate v (State.new s.cfg s.seed)).responses = [r] := by
  have hinv' : State.Inv { s with requests := rest } := ⟨hinv.seedWf, hinv.slotFits, hinv.phaseOk⟩
  obtain ⟨q, hq, hnew⟩ := evaluate_answers_as_new hinv' hcoherent v
  obtain rfl : q = r := first_answer_unique (theMachinePerformsEvaluate s v rest hidle hreq) hq ht hr
  exact hnew

/-- Settles O57: both answers are that of the core constructed with their configuration and seed block. -/
theorem evaluateIsAFunctionOfValueAndConfiguration : Obligations.EvaluateIsAFunctionOfValueAndConfiguration := by
  intro s s' t t' v rest rest' r r' hinv hinv' hcoherent hcoherent' hcfg hseed hidle hidle' hreq hreq' ht hr
    ht' hr'
  have h := new_answers_first_answer hinv hcoherent hidle hreq ht hr
  have h' := new_answers_first_answer hinv' hcoherent' hidle' hreq' ht' hr'
  rw [hcfg, hseed] at h
  exact List.singleton_injective (h.symm.trans h')

end Sys2Proof.Machine
end

section
/-! Fault entry is precise (R246, R247): the one way a step answers a fault is `State.takeFault`, taken where IU
stands untouched. -/

namespace Sys2Proof.Machine

/-! ## What a piece of an attempt leaves of IU -/

theorem AttemptFrame.refl (s : State) : AttemptFrame s s := rfl

/-- A piece of an attempt leaves IU's registers as they were (R29). -/
theorem AttemptFrame.iu {s t : State} (h : AttemptFrame s t) :
    t.acc = s.acc ∧ t.inp = s.inp ∧ t.pc = s.pc ∧ t.ctx = s.ctx := by
  refine ⟨?_, ?_, ?_, ?_⟩ <;> rw [h]

/-! ## The entry of a fault -/

/-- From `s` to `t` a fault is entered, at once or where a piece of an attempt begun in `s` has stopped (R246). -/
def EntersFault (s t : State) : Prop := ∃ u f, AttemptFrame s u ∧ t = u.takeFault f

/-- From `s` to `t` the host is answered a fault only by the entry of one. -/
def FaultsByEntry (s t : State) : Prop := ∀ r, t.responses = s.responses ++ [.fault r] → EntersFault s t

namespace FaultsByEntry

variable {s t u : State}

theorem of_responses (h : t.responses = s.responses) : FaultsByEntry s t := by
  intro r hr
  simp [h] at hr

theorem of_result {x : DWord} (h : t.responses = s.responses ++ [.ok x]) : FaultsByEntry s t := by
  intro r hr
  simp [h] at hr

theorem of_frame (h : AttemptFrame s u) (f : FaultRecord) : FaultsByEntry s (u.takeFault f) :=
  fun _ _ => ⟨u, f, h, rfl⟩

theorem takeFault (s : State) (f : FaultRecord) : FaultsByEntry s (s.takeFault f) :=
  of_frame (.refl s) f

end FaultsByEntry

/-! ## The step of each phase -/

theorem settle_faultsByEntry {s : State} {e : Emit} (h : AttemptFrame s e.state) : FaultsByEntry s (settle e) := by
  cases e with
  | ok t => exact .of_responses h.responses
  | abandoned t =>
    by_cases hr : t.rounds ≤ 1
    · rw [settle, abandonAttempt_of_le hr]
      exact .of_frame h _
    · rw [settle, abandonAttempt_of_ge (by omega)]
      exact .of_responses h.responses
  | lookupFailed base residue t => exact .of_frame h _

theorem emitStep_faultsByEntry {s t : State} (h : emitStep s = .next t) : FaultsByEntry s t := by
  obtain ⟨-, rfl⟩ | ⟨a, rest, e, -, he, rfl⟩ := emitStep_cases h
  · exact settle_faultsByEntry (closeAttempt_frame s)
  · have popped : AttemptFrame s { s with acts := rest } := rfl
    exact settle_faultsByEntry (popped.trans he.frame)

theorem storeProgram_faultsByEntry (s : State) : FaultsByEntry s (storeProgram s) := by
  obtain ⟨-, e⟩ | e := storeProgram_cases (s := s) rfl
  · exact .of_responses (e ▸ rfl)
  · exact e ▸ .takeFault s _

theorem finishRun_faultsByEntry (half : RunHalf) (s : State) : FaultsByEntry s (finishRun half s) := by
  cases half with
  | low => exact .of_responses rfl
  | high => exact .of_result rfl

theorem runStep_faultsByEntry {half : RunHalf} {s t : State} (h : runStep half s = .next t) :
    FaultsByEntry s t := by
  obtain ⟨p, -, rfl | ⟨w, -, -, hw⟩⟩ := runStep_cases h
  · exact finishRun_faultsByEntry half s
  · obtain ⟨acc, ctx, pc, rfl⟩ | ⟨f, rfl⟩ := execWord_answersIu w s t hw
    · exact .of_responses rfl
    · exact .takeFault s f

theorem step_faultsByEntry {s t : State} (h : step s = .next t) : FaultsByEntry s t := by
  unfold step at h
  cases hp : s.phase with
  | idle => rw [hp] at h; cases h; exact .of_responses (acceptRequest_responses s)
  | fillStart => rw [hp] at h; cases h; exact .of_responses rfl
  | attemptStart => rw [hp] at h; cases h; exact settle_faultsByEntry (startAttempt_frame s)
  | emitting => rw [hp] at h; exact emitStep_faultsByEntry h
  | storing => rw [hp] at h; cases h; exact storeProgram_faultsByEntry s
  | runStart half => rw [hp] at h; cases h; exact .of_responses (startRun_responses half s)
  | running half => rw [hp] at h; exact runStep_faultsByEntry h

/-! ## The obligations -/

/-- Settles O21: the fault is entered where at most a piece of an attempt has gone before, which leaves all
that the statement lists, and so does the entry. -/
theorem faultsArePreciseAndLeaveTheStoreAlone : Obligations.FaultsArePreciseAndLeaveTheStoreAlone := by
  intro s t r h hr
  obtain ⟨u, f, hu, rfl⟩ := step_faultsByEntry h r hr
  obtain ⟨hcfg, hseed, hslots, hvalue⟩ := hu.keeps
  obtain ⟨hacc, hinp, hpc, hctx⟩ := hu.iu
  exact ⟨rfl, hslots, hcfg, hseed, hu.requests, hacc, hinp, hpc, hctx, hvalue⟩

/-- Settles O22: each kind of fault has its own equation in `FaultRecord.code`. -/
theorem faultCodesAreOneToSix : Obligations.FaultCodesAreOneToSix :=
  fun _ _ _ _ _ => ⟨rfl, rfl, rfl, rfl, rfl, rfl⟩

end Sys2Proof.Machine
end

section
/-! Under the host's conditions every `EVALUATE` ends with a result (R273): what a store FE wrote holds has FE's
shape, and an empty slot is filled with a program that fits. -/

namespace Sys2Proof.Machine

/-! ## A store FE wrote holds programs of FE's shape -/

/-- A fill that hands a program over has made one of FE's shape (R79). -/
theorem FillEnds.programWellFormed {s f : State} (h : FillEnds s f) (hp : f.phase = .storing) :
    ∃ is : List Instr, f.buf = is.map encode ∧ programWellFormed is = true := by
  cases h with
  | returned hu hone hfive h =>
    obtain ⟨is, hbuf, hwf, -⟩ := completedAttemptsAreWellFormedAndWithinBudget _ _ hone hfive h
    exact ⟨is, hbuf, hwf⟩
  | exhausted hu hone h => cases hp
  | lookupFailed hu h => cases hp

theorem State.Coherent.feProgram {s : State} {p : Program} (h : s.Coherent) (hp : s.program? = some p) :
    s.FeProgram := by
  obtain ⟨hphase, hbuf⟩ := h s.value p hp
  obtain ⟨is, his, hwf⟩ := (fillEnds_fillSlot _).programWellFormed hphase
  exact ⟨is, by rw [hp, ← hbuf, his], hwf⟩

/-! ## The conditions the host owes -/

theorem wellFormed_iff (c : Configuration) :
    c.wellFormed = true ↔ c.orderTotal = true ∧ c.budgetSuffices = true ∧
      capacityAtLeast 5 c.ctxDepth = true ∧ capacityAtLeast 77 c.progCap = true := by
  simp [Configuration.wellFormed, and_assoc]

/-- Under them an `EVALUATE` on a store FE wrote answers a result: whether the slot was filled before or is
filled now, the runs are those of a coherent store. -/
theorem evaluate_answers_result {s : State} (h : s.Coherent) (hwf : s.cfg.wellFormed = true)
    (hlen : 1024 ≤ s.seed.len) (v : DWord) :
    ∃ r, (evaluate v s).responses = s.responses ++ [.ok r] ∧ (evaluate v s).phase = .idle := by
  obtain ⟨htotal, hbudget, hdepth, hcap⟩ := (wellFormed_iff s.cfg).mp hwf
  have hv : (s.withValue v).Coherent := h
  cases hslot : s.slots.get (slotOf v) with
  | some p =>
    rw [evaluate_of_filled (by simp [hslot])]
    exact feProgramsNeverFault (s.withValue v) (hv.feProgram hslot) hlen hdepth
  | none =>
    obtain ⟨-, hfills⟩ := sufficientConfigurationsFillEverySlot (s.withValue v) htotal hbudget
    obtain ⟨hlow, -⟩ := hfills hcap
    have hframe := performFill_transactionFrame (s.withValue v)
    obtain ⟨o, hfill⟩ := performFill_answers (s.withValue v)
    cases o with
    | error f =>
      cases hfill with
      | failed hphase hresponses => cases hphase.symm.trans hlow
    | ok p =>
      rw [evaluate_of_stored hslot hfill]
      cases hfill with
      | stored hphase hprogram hresponses hloads =>
        obtain ⟨r, hr, hidle⟩ := feProgramsNeverFault _ ((performFill_coherent hv).feProgram hprogram)
          (hframe.seed ▸ hlen) (hframe.cfg ▸ hdepth)
        exact ⟨r, by rw [hr, hresponses]; rfl, hidle⟩

/-- Settles O58: the machine reaches the state in which the `EVALUATE` has answered (O48). -/
theorem sufficientConfigurationsAlwaysAnswerAResult : Obligations.SufficientConfigurationsAlwaysAnswerAResult := by
  intro s v rest hcoherent hwf hlen hidle hreq
  have hcoherent' : State.Coherent { s with requests := rest } := hcoherent
  obtain ⟨r, hr, hphase⟩ := evaluate_answers_result hcoherent' hwf hlen v
  exact ⟨_, r, theMachinePerformsEvaluate s v rest hidle hreq, hphase, hr⟩

end Sys2Proof.Machine
end
